-- ==== Sys2Proof/Word.lean ====
section
/-! DEFINITION. The words of the block and the index types of the parity-check matrix
(spec/00_scope.md R5, R8, R9, R11). -/

namespace Sys2Proof

/-- Every register and command word is 32 bits wide (R8). -/
abbrev Word := BitVec 32

/-- One message byte, or one byte lane of a word (spec/20_memory.md R63). -/
abbrev Byte := BitVec 8

/-- A binary64 value, as its 64-bit pattern (R11). -/
abbrev F64 := BitVec 64

/-- A check row `i` of H, `K` = 128 of them (R5, R9). -/
abbrev Row := Fin 128

/-- A variable column `a` of H, `N` = 256 of them (R5, R9). -/
abbrev Col := Fin 256

end Sys2Proof
end

