-- ==== Sys2Proof/Machine/Rom.lean ====
section
/-! DEFINITION. The code structure ROMs: the block table, H and its two connectivity indices
(spec/40_code_structure.md R100 to R107). -/

namespace Sys2Proof.Machine

/-- The four kinds a circulant block can be (R100, R101). -/
inductive Block where
  /-- All zero. -/
  | z
  /-- `P(k)` = Φ^k. -/
  | p (k : Nat)
  /-- The identity. -/
  | i
  /-- `IP(k)`: the identity plus Φ^k, mod 2. -/
  | ip (k : Nat)
  deriving DecidableEq, Repr

/-- The shift set `S(B)` (R102). -/
def Block.shifts : Block → List Nat
  | .z => []
  | .p k => [k]
  | .i => [0]
  | .ip k => [0, k]

/-- `H_BLOCKS`, by block row and block column (R102, log 9). -/
def hBlocks : List (List Block) :=
  [[.ip 31, .p 15, .p 25, .p 0, .z, .p 20, .p 12, .i],
   [.p 28, .ip 30, .p 29, .p 24, .i, .z, .p 1, .p 20],
   [.p 8, .p 0, .ip 28, .p 1, .p 29, .i, .z, .p 21],
   [.p 18, .p 30, .p 0, .ip 30, .p 25, .p 26, .i, .z]]

/-- Block (p, q) of the grid (R100). -/
def blockAt (p q : Nat) : Block := (hBlocks.getD p []).getD q .z

/-- `H[i][a]` (R103): row ρ of Φ^k has its 1 in column (ρ + k) mod 32 (R101). -/
def hBit (i : Row) (a : Col) : Bool :=
  (blockAt (i.val / 32) (a.val / 32)).shifts.any fun k => a.val % 32 == (i.val % 32 + k) % 32

/-- Insertion into an ascending list. -/
def insertAsc (x : Nat) : List Nat → List Nat
  | [] => [x]
  | y :: ys => if x ≤ y then x :: y :: ys else y :: insertAsc x ys

/-- The list in ascending order. -/
def sortAsc (L : List Nat) : List Nat := L.foldr insertAsc []

/-- The column indices of row `i`, block column by block column (R105). -/
def rowEdges (i : Nat) : List Nat :=
  (List.range 8).flatMap fun q =>
    (blockAt (i / 32) q).shifts.map fun k => 32 * q + (i % 32 + k) % 32

/-- The row indices of column `a`, block row by block row; (γ − k) mod 32 is Euclidean, and every
shift k is below 32 (R106). -/
def colEdges (a : Nat) : List Nat :=
  (List.range 4).flatMap fun p =>
    (blockAt p (a / 32)).shifts.map fun k => 32 * p + (a % 32 + (32 - k)) % 32

/-- `conns_row[i]` (R22, R105). Every entry is below 256. -/
def connsRow (i : Row) : List Col := (sortAsc (rowEdges i.val)).map (Fin.ofNat 256)

/-- `conns_col[a]` (R22, R106). Every entry is below 128. -/
def connsCol (a : Col) : List Row := (sortAsc (colEdges a.val)).map (Fin.ofNat 128)

end Sys2Proof.Machine
end

