-- ==== Sys2Proof/Machine/Operands.lean ====
section
/-! DEFINITION. The operand forms of the commands: 12-bit unsigned fields read as a row, a column or
a position, with the range checks of spec/30_encoding.md R82, R84. None means RANGE. -/

namespace Sys2Proof.Machine

/-- The column an operand names, if it is below `N` = 256. -/
def colOperand (x : BitVec 12) : Option Col :=
  if h : x.toNat < 256 then some ⟨x.toNat, h⟩ else none

/-- The row an operand names, if it is below `K` = 128. -/
def rowOperand (x : BitVec 12) : Option Row :=
  if h : x.toNat < 128 then some ⟨x.toNat, h⟩ else none

/-- The entry at the position an operand names, if it is below the list's length. -/
def entryOperand {α : Type} (L : List α) (k : BitVec 12) : Option α := L[k.toNat]?

end Sys2Proof.Machine
end

