-- ==== Sys2Proof/Machine/FpFormat.lean ====
section
/-! DEFINITION. The binary64 format: its fields, its special values, its comparisons and the hard
decision (spec/00_scope.md R11, R12; spec/41_codeword_and_pack.md R135). -/

namespace Sys2Proof.Fp

/-- Bit 63, the sign. -/
def sign (x : F64) : Bool := x.msb

/-- Bits 62:0, the biased exponent and the fraction read as one number.
Among finite values of one sign it grows with the magnitude. -/
def mag (x : F64) : Nat := x.toNat % 2 ^ 63

/-- The magnitude bits of ±∞: exponent all ones, fraction 0. -/
def infMag : Nat := 0x7FF0000000000000

/-- The pattern with sign bit `s` and magnitude bits `m`. -/
def ofSignMag (s : Bool) (m : Nat) : F64 := BitVec.ofNat 64 (m + if s then 2 ^ 63 else 0)

def posZero : F64 := 0x0000000000000000
def negZero : F64 := 0x8000000000000000
def one : F64 := 0x3FF0000000000000
def negOne : F64 := 0xBFF0000000000000
def two : F64 := 0x4000000000000000
def posInf : F64 := 0x7FF0000000000000
def negInf : F64 := 0xFFF0000000000000

/-- Exponent all ones, fraction not 0 (R135). -/
def isNaN (x : F64) : Bool := decide (infMag < mag x)

def isInf (x : F64) : Bool := decide (mag x = infMag)

def isFinite (x : F64) : Bool := decide (mag x < infMag)

/-- +0.0 or −0.0. -/
def isZero (x : F64) : Bool := decide (mag x = 0)

/-- The position of a non-NaN value in the IEEE order: both zeros stand at 0. -/
def key (x : F64) : Int := if sign x then -(mag x : Int) else mag x

/-- The IEEE comparison `x ≤ y`: false if either is a NaN (R11). -/
def le (x y : F64) : Bool := !isNaN x && !isNaN y && decide (key x ≤ key y)

/-- The IEEE comparison `x < y`: false if either is a NaN (R11). -/
def lt (x y : F64) : Bool := !isNaN x && !isNaN y && decide (key x < key y)

/-- `le0(x)`: the comparison `x ≤ 0.0`; true for both zeros, false for NaN (R11). -/
def le0 (x : F64) : Bool := le x posZero

/-- The hard decision: bit 1 if `le0(x)`, else bit 0; so `hard(NaN)` = 0 (R12). -/
def hard (x : F64) : Bool := le0 x

/-- `−x`: the other sign bit. -/
def neg (x : F64) : F64 := ofSignMag (!sign x) (mag x)

/-- The magnitude of a finite value as a whole number of units of 2^−1074, the spacing of the
subnormals: fraction alone if the exponent field is 0, else 1.fraction scaled by the exponent. -/
def units (x : F64) : Nat :=
  let e := mag x / 2 ^ 52
  let f := mag x % 2 ^ 52
  if e = 0 then f else (2 ^ 52 + f) <<< (e - 1)

/-- A finite value, exactly, in units of 2^−1074. -/
def value (x : F64) : Int := if sign x then -(units x : Int) else units x

theorem sign_ofSignMag (s : Bool) {m : Nat} (h : m < 2 ^ 63) : sign (ofSignMag s m) = s := by
  cases s <;> simp [sign, ofSignMag, BitVec.msb_eq_decide] <;> omega

theorem mag_ofSignMag (s : Bool) {m : Nat} (h : m < 2 ^ 63) : mag (ofSignMag s m) = m := by
  cases s <;> simp [mag, ofSignMag] <;> omega

theorem mag_lt (x : F64) : mag x < 2 ^ 63 := Nat.mod_lt _ (by decide)

theorem key_ofSignMag (s : Bool) {m : Nat} (h : m < 2 ^ 63) :
    key (ofSignMag s m) = if s then -(m : Int) else m := by
  simp [key, sign_ofSignMag s h, mag_ofSignMag s h]

theorem isNaN_ofSignMag (s : Bool) {m : Nat} (h : m < 2 ^ 63) :
    isNaN (ofSignMag s m) = decide (infMag < m) := by
  simp [isNaN, mag_ofSignMag s h]

theorem isNaN_neg (x : F64) : isNaN (neg x) = isNaN x := by
  simp [isNaN, neg, mag_ofSignMag _ (mag_lt x)]

theorem le_iff {x y : F64} :
    le x y = true ↔ isNaN x = false ∧ isNaN y = false ∧ key x ≤ key y := by
  simp [le, and_assoc]

theorem lt_iff {x y : F64} :
    lt x y = true ↔ isNaN x = false ∧ isNaN y = false ∧ key x < key y := by
  simp [lt, and_assoc]

end Sys2Proof.Fp
end

