-- ==== Sys2Proof/Config.lean ====
section
/-! DEFINITION. What the spec leaves to the implementation or leaves open, as constants no proof can
see into: TANH and ATANH with their laws (spec/00_scope.md R14), NaN payloads (U5), the values of
unwritten LLR entries (spec/70_reset_and_hazards.md R251), and BASE (spec/20_memory.md R61). -/

namespace Sys2Proof.Config

open Sys2Proof.Fp

/-- The laws of spec/00_scope.md R14, the only facts a proof may use about TANH and ATANH.
"Has the sign of x" is read as: the same sign bit (DEDUCED, log 7; the weaker reading, safe). -/
structure TranscendentalLaws (tanh atanh : F64 → F64) : Prop where
  /-- (T1) -/
  tanh_posZero : tanh posZero = posZero
  tanh_negZero : tanh negZero = negZero
  /-- (T2) -/
  tanh_posInf : tanh posInf = one
  tanh_negInf : tanh negInf = negOne
  /-- (T3) -/
  tanh_nan : ∀ x, isNaN x = true → isNaN (tanh x) = true
  /-- (T4) -/
  tanh_ge : ∀ x, isNaN x = false → le negOne (tanh x) = true
  tanh_le : ∀ x, isNaN x = false → le (tanh x) one = true
  tanh_neg : ∀ x, isNaN x = false → tanh (neg x) = neg (tanh x)
  /-- (T5) -/
  tanh_mono : ∀ x y, le x y = true → le (tanh x) (tanh y) = true
  /-- (T6) -/
  tanh_sign : ∀ x, isFinite x = true → isZero x = false → sign (tanh x) = sign x
  /-- (A1) -/
  atanh_one : atanh one = posInf
  atanh_negOne : atanh negOne = negInf
  /-- (A2) -/
  atanh_posZero : atanh posZero = posZero
  atanh_negZero : atanh negZero = negZero
  /-- (A3) -/
  atanh_nan : ∀ x, isNaN x = true → isNaN (atanh x) = true
  /-- (A4) -/
  atanh_finite : ∀ x, lt negOne x = true → lt x one = true → isFinite (atanh x) = true
  atanh_sign : ∀ x, lt negOne x = true → lt x one = true → sign (atanh x) = sign x
  atanh_neg : ∀ x, lt negOne x = true → lt x one = true → atanh (neg x) = neg (atanh x)
  /-- (A5) -/
  atanh_mono : ∀ x y, le negOne x = true → le x y = true → le y one = true →
    le (atanh x) (atanh y) = true

/-- A pair of functions that meets the laws, here only to show that one exists: the sign of x. -/
def signTanh (x : F64) : F64 :=
  if isNaN x then x else if isZero x then x else ofSignMag (sign x) (mag one)

/-- The partner of `signTanh`: x itself inside (−1, 1), ±∞ from ±1 on. -/
def clampAtanh (x : F64) : F64 :=
  if isNaN x then x else if mag x < mag one then x else ofSignMag (sign x) infMag

theorem signTanh_nan {x : F64} (h : isNaN x = true) : signTanh x = x := by simp [signTanh, h]

theorem signTanh_zero {x : F64} (h : mag x = 0) : signTanh x = x := by
  simp [signTanh, isZero, h]

theorem signTanh_other {x : F64} (hn : isNaN x = false) (hz : mag x ≠ 0) :
    signTanh x = ofSignMag (sign x) 0x3FF0000000000000 := by
  have : mag one = 0x3FF0000000000000 := by decide
  simp [signTanh, isZero, hn, hz, this]

theorem clampAtanh_in {x : F64} (h : mag x < 0x3FF0000000000000) : clampAtanh x = x := by
  have : mag one = 0x3FF0000000000000 := by decide
  unfold clampAtanh
  split
  · rfl
  · simp [this, h]

theorem clampAtanh_out {x : F64} (hn : isNaN x = false) (h : ¬ mag x < 0x3FF0000000000000) :
    clampAtanh x = ofSignMag (sign x) 0x7FF0000000000000 := by
  have : mag one = 0x3FF0000000000000 := by decide
  simp [clampAtanh, hn, this, h, infMag]

theorem key_one : key one = 0x3FF0000000000000 := by decide
theorem key_negOne : key negOne = -0x3FF0000000000000 := by decide

theorem isNaN_one : isNaN one = false := by decide
theorem isNaN_negOne : isNaN negOne = false := by decide

/-- What `signTanh` does to the order position of a non-NaN value. -/
theorem signTanh_key {x : F64} (h : isNaN x = false) :
    isNaN (signTanh x) = false ∧
    key (signTanh x) = if key x < 0 then -0x3FF0000000000000 else
      if key x = 0 then 0 else 0x3FF0000000000000 := by
  by_cases hz : mag x = 0
  · rw [signTanh_zero hz]
    refine ⟨h, ?_⟩
    simp [key, hz]
  · rw [signTanh_other h hz, isNaN_ofSignMag _ (by decide), key_ofSignMag _ (by decide)]
    refine ⟨by decide, ?_⟩
    unfold key
    cases sign x <;> simp <;> omega

/-- What `clampAtanh` does to the order position of a non-NaN value. -/
theorem clampAtanh_key {x : F64} (h : isNaN x = false) :
    isNaN (clampAtanh x) = false ∧
    key (clampAtanh x) = if key x ≤ -0x3FF0000000000000 then -0x7FF0000000000000 else
      if key x < 0x3FF0000000000000 then key x else 0x7FF0000000000000 := by
  by_cases hm : mag x < 0x3FF0000000000000
  · rw [clampAtanh_in hm]
    refine ⟨h, ?_⟩
    unfold key
    cases sign x <;> simp <;> omega
  · rw [clampAtanh_out h hm, isNaN_ofSignMag _ (by decide), key_ofSignMag _ (by decide)]
    refine ⟨by decide, ?_⟩
    unfold key
    cases sign x <;> simp <;> omega

theorem mag_lt_one_of_lt {x : F64} (h1 : lt negOne x = true) (h2 : lt x one = true) :
    mag x < 0x3FF0000000000000 := by
  rw [lt_iff, key_negOne] at h1
  rw [lt_iff, key_one] at h2
  obtain ⟨-, -, h1⟩ := h1
  obtain ⟨-, -, h2⟩ := h2
  unfold key at h1 h2
  cases hs : sign x <;> simp [hs] at h1 h2 <;> omega

/-- The laws of R14 can be met: the witness behind `Transcendental`. -/
theorem signTanh_clampAtanh_laws : TranscendentalLaws signTanh clampAtanh where
  tanh_posZero := by decide
  tanh_negZero := by decide
  tanh_posInf := by decide
  tanh_negInf := by decide
  tanh_nan x h := by rwa [signTanh_nan h]
  tanh_ge x h := by
    obtain ⟨hn, hk⟩ := signTanh_key h
    refine le_iff.2 ⟨isNaN_negOne, hn, ?_⟩
    rw [hk, key_negOne]; split <;> [skip; split] <;> omega
  tanh_le x h := by
    obtain ⟨hn, hk⟩ := signTanh_key h
    refine le_iff.2 ⟨hn, isNaN_one, ?_⟩
    rw [hk, key_one]; split <;> [skip; split] <;> omega
  tanh_neg x h := by
    have hm := mag_lt x
    have h' : isNaN (neg x) = false := by rw [isNaN_neg, h]
    by_cases hz : mag x = 0
    · rw [signTanh_zero hz, signTanh_zero (by rw [neg, mag_ofSignMag _ hm, hz])]
    · rw [signTanh_other h hz, signTanh_other h' (by rwa [neg, mag_ofSignMag _ hm]), neg, neg,
        sign_ofSignMag _ hm, sign_ofSignMag _ (by decide), mag_ofSignMag _ (by decide)]
  tanh_mono x y h := by
    obtain ⟨hx, hy, hk⟩ := le_iff.1 h
    obtain ⟨hxn, hxk⟩ := signTanh_key hx
    obtain ⟨hyn, hyk⟩ := signTanh_key hy
    refine le_iff.2 ⟨hxn, hyn, ?_⟩
    rw [hxk, hyk]; split_ifs <;> omega
  tanh_sign x h hz := by
    have hn : isNaN x = false := by simp [isNaN, isFinite] at h ⊢; omega
    have hz' : mag x ≠ 0 := by simpa [isZero] using hz
    rw [signTanh_other hn hz', sign_ofSignMag _ (by decide)]
  atanh_one := by decide
  atanh_negOne := by decide
  atanh_posZero := by decide
  atanh_negZero := by decide
  atanh_nan x h := by simp [clampAtanh, h]
  atanh_finite x h1 h2 := by
    have hm := mag_lt_one_of_lt h1 h2
    rw [clampAtanh_in hm]
    exact decide_eq_true (Nat.lt_trans hm (by decide))
  atanh_sign x h1 h2 := by rw [clampAtanh_in (mag_lt_one_of_lt h1 h2)]
  atanh_neg x h1 h2 := by
    have hm := mag_lt_one_of_lt h1 h2
    rw [clampAtanh_in hm, clampAtanh_in (by rwa [neg, mag_ofSignMag _ (mag_lt x)])]
  atanh_mono x y _ h _ := by
    obtain ⟨hx, hy, hk⟩ := le_iff.1 h
    obtain ⟨hxn, hxk⟩ := clampAtanh_key hx
    obtain ⟨hyn, hyk⟩ := clampAtanh_key hy
    refine le_iff.2 ⟨hxn, hyn, ?_⟩
    rw [hxk, hyk]; split_ifs <;> omega

/-- A TANH and an ATANH with their laws. -/
structure Transcendental where
  tanh : F64 → F64 := signTanh
  atanh : F64 → F64 := clampAtanh
  laws : TranscendentalLaws tanh atanh := by exact signTanh_clampAtanh_laws
  deriving Inhabited

/-- This hardware's TANH and ATANH: uninterpreted, known by their laws alone (R14, D2, U3, U4). -/
opaque transcendental : Transcendental

/-- `TANH(x)` (R14). -/
def tanh (x : F64) : F64 := transcendental.tanh x

/-- `ATANH(x)` (R14). -/
def atanh (x : F64) : F64 := transcendental.atanh x

/-- Where the payload and sign of a NaN made by arithmetic come from: free, by the operation (0 for
`fadd`, 1 for `fmul`, 2 for `fhalf`) and its operands (U5, log 8). -/
opaque freeNaN : Nat → F64 → F64 → F64

/-- The value a read of an LLR entry not written since reset gives: free, by the draw number, the
entry, and which of the step's reads of that entry it is (R251, log 1). -/
opaque freeLlr : Nat → Nat → Nat → F64

/-- `BASE` / 256: the platform's, free (R61, U10, log 11). -/
opaque basePage : Nat

/-- `BASE`, the byte address of the register window, a multiple of 256 (R61). -/
def base : Nat := 256 * basePage

end Sys2Proof.Config
end

