-- ==== Sys2Proof/Syntax.lean ====
section
/-! DEFINITION. The steps either agent can take: one constructor per row of spec/opcode_table.json
(spec/30_encoding.md R83, R89). -/

namespace Sys2Proof

/-- Format `C` commands, then the host's two bus accesses, then the engine's five phases. -/
inductive Instr where
  /-- `NOP` (spec/43_host_access.md R195). -/
  | nop
  /-- `LLR_WR a` (R196). -/
  | llrWr (a : BitVec 12)
  /-- `LLR_RD a` (R197). -/
  | llrRd (a : BitVec 12)
  /-- `DECODE` (spec/42_decoder.md R150). -/
  | decode
  /-- `CHECK` (spec/41_codeword_and_pack.md R131). -/
  | check
  /-- `PACK` (R134). -/
  | pack
  /-- `H_RD i, a` (spec/40_code_structure.md R109). -/
  | hRd (i a : BitVec 12)
  /-- `ROW_RD i, k` (R110). -/
  | rowRd (i k : BitVec 12)
  /-- `COL_RD a, k` (R111). -/
  | colRd (a k : BitVec 12)
  /-- `CLEAR` (spec/43_host_access.md R199). -/
  | clear
  /-- `REG_RD(off)`, a host read of `bits` bits (R190). -/
  | regRd (bits : Nat) (off : BitVec 8)
  /-- `REG_WR(off, v)`, a host write of `bits` bits (R191). -/
  | regWr (bits : Nat) (off : BitVec 8) (v : Word)
  /-- The engine's `INIT` step (spec/42_decoder.md R152). -/
  | init
  /-- The engine's `CONV` step (R153). -/
  | conv
  /-- The engine's `CNU` step (R155). -/
  | cnu
  /-- The engine's `VNU` step (R156). -/
  | vnu
  /-- The engine's `MARG` step (R157). -/
  | marg
  deriving DecidableEq, Repr

/-- A host access as it reaches the block: its width in bits, bits 7:0 of its address
(spec/20_memory.md R61, R62), and for a write the data on the 32 data lines. -/
inductive BusAccess where
  | read (bits : Nat) (off : BitVec 8)
  | write (bits : Nat) (off : BitVec 8) (v : Word)
  deriving DecidableEq, Repr

/-- The three formats of spec/opcode_table.json (R89): `C`, a command word; `bus`, an access;
`engine-phase`, a `STATUS.PHASE` code. -/
inductive Encoding where
  | command (w : Word)
  | bus (acc : BusAccess)
  | phase (code : BitVec 3)
  deriving DecidableEq, Repr

end Sys2Proof
end

