-- ==== Sys2Proof/WellFormed.lean ====
section
/-! DEFINITION. Which instructions can be put on the bus at all. A command's operands fill their 12
bits (spec/30_encoding.md R80), and an operand out of its range is an instruction with an effect of
its own (R84), so only bus accesses have a form to check. -/

namespace Sys2Proof

/-- A bus access moves a whole, positive number of bytes (spec/20_memory.md R62 speaks of 8-bit,
16-bit, 32-bit and wider accesses). -/
def wholeBytes (bits : Nat) : Bool := decide (0 < bits) && decide (bits % 8 = 0)

/-- The data of a write fits its width. -/
def fitsWidth (bits : Nat) (v : Word) : Bool := decide (v.toNat < 2 ^ bits)

/-- The checks a form must pass. -/
def Instr.wellFormed : Instr → Bool
  | .nop => true
  | .llrWr _ => true
  | .llrRd _ => true
  | .decode => true
  | .check => true
  | .pack => true
  | .hRd _ _ => true
  | .rowRd _ _ => true
  | .colRd _ _ => true
  | .clear => true
  | .regRd bits _ => wholeBytes bits
  | .regWr bits _ v => wholeBytes bits && fitsWidth bits v
  | .init => true
  | .conv => true
  | .cnu => true
  | .vnu => true
  | .marg => true

end Sys2Proof
end

