-- ==== Sys2Proof/Decode.lean ====
section
/-! DEFINITION. From encodings to instructions and back (spec/30_encoding.md R80 to R89). Decoding
is total: an encoding that stands for no instruction is rejected by name. -/

namespace Sys2Proof

/-- Why an encoding stands for no instruction. The first two raise `CmdError(ILLEGAL)` when they
are written to `CMD` (R85, R86). -/
inductive Reject where
  /-- An opcode from 0x0A to 0xFF. -/
  | reservedOpcode
  /-- A nonzero operand field that the command does not use. -/
  | operandNotZero
  /-- PHASE code 0: the idle engine takes no step. -/
  | idlePhase
  /-- PHASE codes 6 and 7, which never occur (spec/10_state.md R26). -/
  | reservedPhase
  deriving DecidableEq, Repr

/-- `OPC`, bits 31:24 of a command word (R80). -/
def opcField (w : Word) : BitVec 8 := w.extractLsb' 24 8

/-- `A`, bits 23:12 (R80, R82). -/
def aField (w : Word) : BitVec 12 := w.extractLsb' 12 12

/-- `B`, bits 11:0 (R80, R82). -/
def bField (w : Word) : BitVec 12 := w.extractLsb' 0 12

/-- `i` if the operand field `x` that must be 0 is 0. -/
def ifZero (x : BitVec 12) (i : Except Reject Instr) : Except Reject Instr :=
  if x = 0 then i else .error .operandNotZero

/-- The command a word stands for, by the opcode map R83 and the ILLEGAL checks of R85. -/
def decodeCommand (w : Word) : Except Reject Instr :=
  let a := aField w
  let b := bField w
  match (opcField w).toNat with
  | 0x00 => ifZero a (ifZero b (.ok .nop))
  | 0x01 => ifZero a (.ok (.llrWr b))
  | 0x02 => ifZero a (.ok (.llrRd b))
  | 0x03 => ifZero a (ifZero b (.ok .decode))
  | 0x04 => ifZero a (ifZero b (.ok .check))
  | 0x05 => ifZero a (ifZero b (.ok .pack))
  | 0x06 => .ok (.hRd a b)
  | 0x07 => .ok (.rowRd a b)
  | 0x08 => .ok (.colRd a b)
  | 0x09 => ifZero a (ifZero b (.ok .clear))
  | _ => .error .reservedOpcode

/-- The engine step of a PHASE code (R89; codes in spec/10_state.md R26). -/
def decodePhase (code : BitVec 3) : Except Reject Instr :=
  match code.toNat with
  | 0 => .error .idlePhase
  | 1 => .ok .init
  | 2 => .ok .conv
  | 3 => .ok .cnu
  | 4 => .ok .vnu
  | 5 => .ok .marg
  | _ => .error .reservedPhase

/-- A bus access, by its kind (R89). -/
def decodeAccess : BusAccess → Instr
  | .read bits off => .regRd bits off
  | .write bits off v => .regWr bits off v

/-- The instruction an encoding stands for. -/
def decode : Encoding → Except Reject Instr
  | .command w => decodeCommand w
  | .bus acc => .ok (decodeAccess acc)
  | .phase code => decodePhase code

/-- A 32-bit word from its four byte lanes, lane 0 first, at the lowest address
(spec/20_memory.md R63). -/
def wordOfLanes (b0 b1 b2 b3 : Byte) : Word := b3 ++ b2 ++ b1 ++ b0

/-- The command in the first four bytes of a list, and the rest; none if there are fewer. -/
def decodeBytes : List Byte → Option (Except Reject Instr × List Byte)
  | b0 :: b1 :: b2 :: b3 :: rest => some (decodeCommand (wordOfLanes b0 b1 b2 b3), rest)
  | _ => none

/-- `enc(opc, A, B)`: `OPC` over `A` over `B` (R80, R87). -/
def enc (opc : BitVec 8) (a b : BitVec 12) : Word := opc ++ a ++ b

/-- The encoding of an instruction (R83, R89). -/
def encode : Instr → Encoding
  | .nop => .command (enc 0x00 0 0)
  | .llrWr a => .command (enc 0x01 0 a)
  | .llrRd a => .command (enc 0x02 0 a)
  | .decode => .command (enc 0x03 0 0)
  | .check => .command (enc 0x04 0 0)
  | .pack => .command (enc 0x05 0 0)
  | .hRd i a => .command (enc 0x06 i a)
  | .rowRd i k => .command (enc 0x07 i k)
  | .colRd a k => .command (enc 0x08 a k)
  | .clear => .command (enc 0x09 0 0)
  | .regRd bits off => .bus (.read bits off)
  | .regWr bits off v => .bus (.write bits off v)
  | .init => .phase 1
  | .conv => .phase 2
  | .cnu => .phase 3
  | .vnu => .phase 4
  | .marg => .phase 5

/-- The encoding a word of spec/opcode_table.json stands for: a format `C` row has 32 bits, an
engine phase has 3 (one byte), and the bus rows have no word (log 13). -/
def encodingOfTableWord (nbits w : Nat) : Option Encoding :=
  if nbits ≤ 8 then some (.phase (BitVec.ofNat 3 w))
  else if nbits ≤ 32 then some (.command (BitVec.ofNat 32 (w % 2 ^ nbits)))
  else none

/-- The instruction the decoder reads from a table word of `nbits` bits. -/
def decodeTableWord (nbits w : Nat) : Option Instr :=
  match encodingOfTableWord nbits w with
  | some e => (decode e).toOption
  | none => none

end Sys2Proof
end

