-- ==== Sys2Proof/Machine/State.lean ====
section
/-! DEFINITION. The state of the block (spec/10_state.md), plain data, and its value after reset
(spec/70_reset_and_hazards.md R250). INVENTORY.md lists every field with its rule. -/

namespace Sys2Proof.Machine

/-- The engine's position in a decode (spec/10_state.md R26). Codes 6 and 7 never occur, and have no
constructor (U14, log 12). -/
inductive Phase where
  | idle | init | conv | cnu | vnu | marg
  deriving DecidableEq, Repr

/-- `STATUS.RESULT` (R30). Code 3 never occurs (U14). -/
inductive Result where
  | none | decoded | notDecoded
  deriving DecidableEq, Repr

/-- `STATUS.ERR` (spec/60_exceptions.md R221). Codes 4 to 15 are never produced (U13). -/
inductive ErrCode where
  | none | illegal | range | busy
  deriving DecidableEq, Repr

/-- One thing the outside world does to the machine (spec/10_state.md R20). The order of the list
that holds them is the interleaving of the agents (log 5). -/
inductive Input where
  /-- A host access to the window. -/
  | access (acc : BusAccess)
  /-- The engine steps before the inputs after this one. -/
  | engineTurn
  /-- The reset input is asserted (R250). -/
  | reset
  deriving DecidableEq, Repr

/-- What the interface answered to the last host access (log 6). -/
inductive BusResponse where
  /-- No access since reset. -/
  | none
  /-- Accepted; no data returned. -/
  | accepted
  /-- A read returned this value. -/
  | data (v : Word)
  /-- The access was faulted with reason "refused bus access", at this offset (R222). -/
  | refused (off : BitVec 8)
  deriving DecidableEq, Repr

/-- The state of the block. -/
@[ext]
structure State where
  /-- `LLR[a]`, as 64-bit patterns (R23). -/
  llr : Vector F64 256
  /-- `written[a]`: `LLR[a]` was written since reset (R23, R251). -/
  written : Vector Bool 256
  /-- `r[a]`, the marginals (R24). -/
  r : Vector F64 256
  /-- `u[i][a]`, check to variable (R24). -/
  u : Vector (Vector F64 256) 128
  /-- `v[a][i]`, variable to check (R24). -/
  v : Vector (Vector F64 128) 256
  /-- The sequencer (R26). -/
  phase : Phase
  /-- The iteration index, unbounded (R26); `ITER_COUNT` shows 16 bits of it (R36). -/
  t : Nat
  /-- `STATUS.DONE` (R30). -/
  done : Bool
  /-- `STATUS.RESULT` (R30). -/
  result : Result
  /-- `STATUS.CHK` (R30). -/
  chk : Bool
  /-- `STATUS.CHK_VALID` (R30). -/
  chkValid : Bool
  /-- `STATUS.ERR` (R30). -/
  err : ErrCode
  /-- `CTRL.IE` (R32). -/
  ie : Bool
  /-- `ITER_CAP.CAP` (R33). -/
  cap : BitVec 16
  /-- `DATA_LO` (R37). -/
  dataLo : Word
  /-- `DATA_HI` (R37). -/
  dataHi : Word
  /-- `MSG0` to `MSG3` (R38). -/
  msg : Vector Word 4
  /-- The model's own: pending inputs, the next one first (log 5). -/
  inputs : List Input
  /-- The model's own: the answer to the last access (log 6). -/
  bus : BusResponse
  /-- The model's own: how many steps have read the LLR buffer, which picks the free values of
  unwritten entries (log 1). -/
  draws : Nat
  deriving DecidableEq, Repr

/-- Why the machine stops. `step` never stops with one (log 1, log 6). They are the fault readings
that spec/60_exceptions.md R222 and spec/70_reset_and_hazards.md R251 give a model, and are
raised by `strictStep` of Sys2Proof/Safety.lean alone. -/
inductive Fault where
  /-- "refused bus access", with its offset (R222). Raised by `strictStep`. Safe: the hardware goes
  on after the error response. -/
  | refusedBusAccess (off : BitVec 8)
  /-- "read of an unwritten LLR entry" (R251). Raised by `strictStep`. Safe: the hardware goes on
  with an unspecified value. -/
  | unwrittenLlrRead
  deriving DecidableEq, Repr

/-- Why an instruction has no meaning. -/
inductive Refusal where
  /-- Raised by an arm of `exec` whose instruction is not modelled; safe. No arm raises it. -/
  | notModelled (mnemonic : String)
  deriving DecidableEq, Repr

/-- What a step answers. -/
abbrev Answer := Host.Outcome State Fault Refusal

/-- The machine right after reset: the values of R42 and R250. The spec leaves `LLR`, `r`, `u` and
`v` unspecified; they are zero here (DESIGN CHOICE, log 2 and log 3), and no step shows them. -/
def State.reset : State where
  llr := Vector.replicate 256 0
  written := Vector.replicate 256 false
  r := Vector.replicate 256 0
  u := Vector.replicate 128 (Vector.replicate 256 0)
  v := Vector.replicate 256 (Vector.replicate 128 0)
  phase := .idle
  t := 0
  done := false
  result := .none
  chk := false
  chkValid := false
  err := .none
  ie := false
  cap := 100
  dataLo := 0
  dataHi := 0
  msg := Vector.replicate 4 0
  inputs := []
  bus := .none
  draws := 0

end Sys2Proof.Machine
end

