-- ==== Sys2Proof/Machine/Ops.lean ====
section
/-! DEFINITION. The named operations over the state that the meanings share: the LLR buffer, the
staging registers, the message registers, errors, and reset. -/

namespace Sys2Proof.Machine

/-- The vector of the values of `f`. -/
def tabulate {α : Type} {n : Nat} (f : Fin n → α) : Vector α n := ⟨(List.ofFn f).toArray, by simp⟩

/-- All rows, ascending. -/
def allRows : List Row := List.finRange 128

/-- All columns, ascending. -/
def allCols : List Col := List.finRange 256

/-- `BUSY` = (`phase` ≠ `IDLE`) (spec/10_state.md R31). -/
def State.busy (s : State) : Bool := s.phase != .idle

/-- `raise CmdError(code)`: the first error is kept, and nothing else changes
(spec/60_exceptions.md R224, R226). The block has no other entry into an error: nothing is saved,
no mode changes and control goes nowhere (R220, R229); `CLEAR` is the way back (R230). -/
def State.raise (e : ErrCode) (s : State) : State :=
  { s with err := if s.err = .none then e else s.err }

/-- `raise BusError(off)`: the access is answered with an error, and no block state changes
(spec/60_exceptions.md R222, log 6). -/
def State.refuseAccess (off : BitVec 8) (s : State) : State := { s with bus := .refused off }

/-- `{DATA_HI, DATA_LO} <- {hi, lo}` (spec/10_state.md R37). -/
def State.setData (hi lo : Word) (s : State) : State := { s with dataHi := hi, dataLo := lo }

/-- `LLR[a] <- x; written[a] <- true` (spec/43_host_access.md R196). -/
def State.setLlr (a : Col) (x : F64) (s : State) : State :=
  { s with llr := s.llr.set a x, written := s.written.set a true }

/-- One read of `LLR[a]`, the `k`-th of that entry in its step: the stored value, or for an entry not
written since reset a free value of this read's own (spec/70_reset_and_hazards.md R251, log 1). -/
def State.readLlr (s : State) (k : Nat) (a : Col) : F64 :=
  if s.written.get a then s.llr.get a else Config.freeLlr s.draws a.val k

/-- `LLR[0..255]`, each entry read once. -/
def State.llrVector (s : State) : Vector F64 256 := tabulate (s.readLlr 0)

/-- The free values a step has drawn are never drawn again. -/
def State.drawn (s : State) : State := { s with draws := s.draws + 1 }

/-- The word of four message bytes, `msg[4w + j]` in lane j (spec/10_state.md R38). -/
def msgWord (out : Vector Byte 16) (w : Fin 4) : Word :=
  wordOfLanes (out.get (Fin.ofNat 16 (4 * w.val))) (out.get (Fin.ofNat 16 (4 * w.val + 1)))
    (out.get (Fin.ofNat 16 (4 * w.val + 2))) (out.get (Fin.ofNat 16 (4 * w.val + 3)))

/-- `MSGw <- {out[4w+3], out[4w+2], out[4w+1], out[4w]}` for w in [0,4) (R38). -/
def State.setMsg (out : Vector Byte 16) (s : State) : State := { s with msg := tabulate (msgWord out) }

/-- The reset step (spec/70_reset_and_hazards.md R250). `LLR`, `r`, `u` and `v` are left as they
were, one of the outcomes the rule allows (log 3); the pending inputs and the draw counter are the
model's own and stay. -/
def State.resetStep (s : State) : State :=
  { s with
    written := tabulate fun _ => false
    phase := .idle, t := 0
    done := false, result := .none, chk := false, chkValid := false, err := .none
    ie := false, cap := 100
    dataLo := 0, dataHi := 0
    msg := tabulate fun _ => 0
    bus := .none }

/-- The offset of a host address in the window, if the access reaches the block; the block decodes
only bits 7:0 (spec/20_memory.md R61). -/
def windowOffset (addr : Nat) : Option (BitVec 8) :=
  if Config.base ≤ addr ∧ addr < Config.base + 256 then some (BitVec.ofNat 8 addr) else none

end Sys2Proof.Machine
end

