-- ==== Sys2Proof/Machine/CodeStructure.lean ====
section
/-! DEFINITION. The observation commands `H_RD`, `ROW_RD` and `COL_RD`: they read the ROMs into
`DATA`, at any phase (spec/40_code_structure.md R109 to R111). -/

namespace Sys2Proof.Machine

/-- `DATA_LO <- zext_32(conns[k]); DATA_HI <- zext_32(|conns|)`, or RANGE if `k` is no position of
the list (R110, R111). -/
def readConns {n : Nat} (conns : List (Fin n)) (k : BitVec 12) (s : State) : Answer :=
  match entryOperand conns k with
  | some x => .next (s.setData (BitVec.ofNat 32 conns.length) (BitVec.ofNat 32 x.val))
  | none => .next (s.raise .range)

/-- `H_RD i, a` (R109). -/
def execHRd (i a : BitVec 12) (s : State) : Answer :=
  match rowOperand i, colOperand a with
  | some row, some col => .next (s.setData 0 (if hBit row col then 1 else 0))
  | _, _ => .next (s.raise .range)

/-- `ROW_RD i, k` (R110). -/
def execRowRd (i k : BitVec 12) (s : State) : Answer :=
  match rowOperand i with
  | some row => readConns (connsRow row) k s
  | none => .next (s.raise .range)

/-- `COL_RD a, k` (R111). -/
def execColRd (a k : BitVec 12) (s : State) : Answer :=
  match colOperand a with
  | some col => readConns (connsCol col) k s
  | none => .next (s.raise .range)

end Sys2Proof.Machine
end

