-- ==== Sys2Proof/Machine/Fp.lean ====
section
/-! DEFINITION. Binary64 arithmetic: `fadd`, `fmul`, `fhalf` and the two folds (spec/00_scope.md
R11, R13). Operands are taken as exact integers in units of 2^−1074, the exact result is computed,
and it is rounded once. -/

namespace Sys2Proof.Fp

/-- `n / 2^d`, rounded to nearest, ties to even. -/
def rneShift (n d : Nat) : Nat :=
  let q := n >>> d
  let r := n % 2 ^ d
  if 2 ^ d < 2 * r ∨ (2 * r = 2 ^ d ∧ q % 2 = 1) then q + 1 else q

/-- The magnitude bits of the binary64 value nearest to `n · 2^(−1074−k)`, ties to even, ∞ on
overflow. `d` bits are dropped: as many as leave 53, and at least the `k` below the subnormal
spacing; then `d − k` is one less than the exponent field, and a carry out of the fraction, or a
missing leading bit, comes out right in the sum. -/
def roundMag (k n : Nat) : Nat :=
  let d := max k (n.log2 - 52)
  min ((d - k) * 2 ^ 52 + rneShift n d) infMag

/-- A NaN whose sign and payload are free (U5, log 8). -/
def freeNaN (op : Nat) (x y : F64) : F64 :=
  let raw := Config.freeNaN op x y
  ofSignMag (sign raw) (infMag + 1 + mag raw % (2 ^ 52 - 1))

/-- `fadd(x, y)`: IEEE 754 addition, to nearest, ties to even (R11). An exact zero sum is +0.0
unless both operands are negative. -/
def fadd (x y : F64) : F64 :=
  if isNaN x || isNaN y then freeNaN 0 x y
  else if isInf x then (if isInf y && sign x != sign y then freeNaN 0 x y else x)
  else if isInf y then y
  else
    let sum := value x + value y
    if sum = 0 then ofSignMag (sign x && sign y) 0
    else ofSignMag (decide (sum < 0)) (roundMag 0 sum.natAbs)

/-- `fmul(x, y)`: IEEE 754 multiplication, to nearest, ties to even (R11). The exact product is in
units of 2^−2148. -/
def fmul (x y : F64) : F64 :=
  if isNaN x || isNaN y then freeNaN 1 x y
  else if isInf x || isInf y then
    (if isZero x || isZero y then freeNaN 1 x y else ofSignMag (sign x ^^ sign y) infMag)
  else ofSignMag (sign x ^^ sign y) (roundMag 1074 (units x * units y))

/-- `fhalf(x)` = `x / 2.0` under the same rounding (R11). -/
def fhalf (x : F64) : F64 :=
  if isNaN x then freeNaN 2 x x
  else if isInf x then x
  else ofSignMag (sign x) (roundMag 1 (units x))

/-- `prod_fold(L, f)`: the product over `L` in order, from 1.0 (R13). -/
def prodFold {α : Type} (L : List α) (f : α → F64) : F64 :=
  L.foldl (fun acc b => fmul acc (f b)) one

/-- `sum_fold(x0, L, f)`: the sum over `L` in order, from `x0` (R13). -/
def sumFold {α : Type} (x0 : F64) (L : List α) (f : α → F64) : F64 :=
  L.foldl (fun acc j => fadd acc (f j)) x0

end Sys2Proof.Fp
end

