-- ==== Sys2Proof/Machine/Codeword.lean ====
section
/-! DEFINITION. The convergence test, the hard decision and the message packer, and the commands
`CHECK` and `PACK` (spec/41_codeword_and_pack.md). -/

namespace Sys2Proof.Machine

/-- The syndrome bit of row `i`: the XOR of the hard decisions on its columns (R130). -/
def syndrome (x : Vector F64 256) (i : Row) : Bool :=
  (connsRow i).foldl (fun acc a => acc ^^ Fp.hard (x.get a)) false

/-- `IsCodeword(x)`: every syndrome bit is 0 (R130). -/
def isCodeword (x : Vector F64 256) : Bool := allRows.all fun i => !syndrome x i

/-- `PACK_BITS`, 64 on this hardware (spec/00_scope.md R6, D17, log 10). -/
def packBits : Nat := 64

/-- The bit position `a = 8j + b` of the packer contributes to byte `j`: bit `7 − b`, set if
`a < bits` and `le0(x[a])` (R132). -/
def packBit (bits : Nat) (x : Vector F64 256) (j : Fin 16) (b : Nat) : Byte :=
  if 8 * j.val + b < bits && Fp.le0 (x.get (Fin.ofNat 256 (8 * j.val + b))) then
    (1 : Byte) <<< (7 - b)
  else 0

/-- `PackMessage(x)` for a given `PACK_BITS` (R132). -/
def packMessage (bits : Nat) (x : Vector F64 256) : Vector Byte 16 :=
  tabulate fun j => (List.range 8).foldl (fun acc b => acc ||| packBit bits x j b) 0

/-- `CHECK` (R131): accepted at any phase. -/
def execCheck (s : State) : Answer :=
  .next { s.drawn with chk := isCodeword s.llrVector, chkValid := true }

/-- `PACK` (R134): BUSY while a decode runs. -/
def execPack (s : State) : Answer :=
  if s.busy then .next (s.raise .busy)
  else .next (s.drawn.setMsg (packMessage packBits s.llrVector))

end Sys2Proof.Machine
end

