-- ==== Sys2Proof/Machine/Decoder.lean ====
section
/-! DEFINITION. The belief-propagation engine: the `DECODE` command and the five phases
(spec/42_decoder.md). `step` takes a phase's step only when the sequencer is in that phase (R151); the
meaning itself does not look at the phase (log 14). -/

namespace Sys2Proof.Machine

/-- `DECODE` (R150): starts a decode; BUSY while one runs. -/
def execDecode (s : State) : Answer :=
  if s.busy then .next (s.raise .busy)
  else .next { s with
    msg := tabulate fun _ => 0
    done := false, result := .none
    t := 0, phase := .init }

/-- `INIT` (R152): the marginals take the channel values, the messages start fresh. The rule names
`LLR[a]` once for `r[a]` and once for each `v[a][i]`, so an unwritten entry is read anew each time. -/
def execInit (s : State) : Answer :=
  .next { s.drawn with
    r := tabulate fun a => s.readLlr 0 a
    u := tabulate fun _ => tabulate fun _ => Fp.posZero
    v := tabulate fun a => tabulate fun i =>
      if hBit i a then s.readLlr (1 + i.val) a else Fp.posZero
    phase := .conv }

/-- The end of a decode with this outcome (R153). -/
def State.finish (res : Result) (s : State) : State :=
  { s with result := res, done := true, phase := .idle }

/-- `CONV` (R153): exhaustion first, then the convergence test on the marginals. -/
def execConv (s : State) : Answer :=
  if s.t = s.cap.toNat then .next (s.finish .notDecoded)
  else if isCodeword s.r then .next ((s.setMsg (packMessage packBits s.r)).finish .decoded)
  else .next { s with phase := .cnu }

/-- The message of check `i` to variable `a`: `2·ATANH` of the product of `TANH(v/2)` over the
check's other edges (R155). -/
def checkMessage (tanh atanh : F64 → F64) (v : Vector (Vector F64 128) 256) (i : Row) (a : Col) :
    F64 :=
  let others := (connsRow i).filter fun b => b != a
  let p := Fp.prodFold others fun b => tanh (Fp.fhalf ((v.get b).get i))
  Fp.fmul Fp.two (atanh p)

/-- `CNU` (R155): writes `u` on the edges of each row, from `v`. -/
def execCnu (s : State) : Answer :=
  .next { s with
    u := tabulate fun i => tabulate fun a =>
      if (connsRow i).contains a then checkMessage Config.tanh Config.atanh s.v i a
      else (s.u.get i).get a
    phase := .vnu }

/-- The message of variable `a` to check `i`: the channel value plus the messages of the variable's
other checks (R156). -/
def variableMessage (llr : F64) (u : Vector (Vector F64 256) 128) (a : Col) (i : Row) : F64 :=
  Fp.sumFold llr ((connsCol a).filter fun j => j != i) fun j => (u.get j).get a

/-- `VNU` (R156): writes `v` on the edges of each column, from `LLR` and `u`. -/
def execVnu (s : State) : Answer :=
  .next { s.drawn with
    v := tabulate fun a => tabulate fun i =>
      if (connsCol a).contains i then variableMessage (s.readLlr i.val a) s.u a i
      else (s.v.get a).get i
    phase := .marg }

/-- The marginal of variable `a`: the channel value plus the messages of all 128 checks (R157). -/
def marginal (llr : F64) (u : Vector (Vector F64 256) 128) (a : Col) : F64 :=
  Fp.sumFold llr allRows fun i => (u.get i).get a

/-- `MARG` (R157): writes `r`, from `LLR` and `u`, and counts the iteration. -/
def execMarg (s : State) : Answer :=
  .next { s.drawn with
    r := tabulate fun a => marginal (s.readLlr 0 a) s.u a
    t := s.t + 1
    phase := .conv }

end Sys2Proof.Machine
end

