-- ==== Sys2Proof/Machine/Flags.lean ====
section
/-! DEFINITION. The `STATUS` fields and the interrupt output (spec/10_state.md R30, R31;
spec/43_host_access.md R192; spec/60_exceptions.md R231). -/

namespace Sys2Proof.Machine

/-- The `phase` codes (spec/10_state.md R26). -/
def Phase.code : Phase → BitVec 3
  | .idle => 0
  | .init => 1
  | .conv => 2
  | .cnu => 3
  | .vnu => 4
  | .marg => 5

/-- The phase of a code; none for the codes 6 and 7, which never occur. -/
def Phase.ofCode (c : BitVec 3) : Option Phase :=
  match c.toNat with
  | 0 => some .idle
  | 1 => some .init
  | 2 => some .conv
  | 3 => some .cnu
  | 4 => some .vnu
  | 5 => some .marg
  | _ => none

/-- The `RESULT` codes (R30). -/
def Result.code : Result → BitVec 2
  | .none => 0
  | .decoded => 1
  | .notDecoded => 2

/-- The `ERR` codes (spec/60_exceptions.md R221). -/
def ErrCode.code : ErrCode → BitVec 4
  | .none => 0
  | .illegal => 1
  | .range => 2
  | .busy => 3

/-- A flag as a word. -/
def flagWord (b : Bool) : Word := if b then 1 else 0

/-- The `irq` output, active high: `CTRL.IE` AND `STATUS.DONE` (R231). -/
def State.irq (s : State) : Bool := s.ie && s.done

/-- The value of `STATUS` on a read (R192). -/
def statusWord (s : State) : Word :=
  flagWord s.busy ||| (flagWord s.done <<< 1) ||| (s.result.code.setWidth 32 <<< 2)
    ||| (flagWord s.chk <<< 4) ||| (flagWord s.chkValid <<< 5) ||| (flagWord s.irq <<< 6)
    ||| (s.err.code.setWidth 32 <<< 8) ||| (s.phase.code.setWidth 32 <<< 12)

end Sys2Proof.Machine
end

