-- ==== Sys2Proof/Machine/HostAccess.lean ====
section
/-! DEFINITION. The LLR buffer and housekeeping commands, and the host's two bus accesses, the
write to `CMD` among them (spec/43_host_access.md). -/

namespace Sys2Proof.Machine

/-- `NOP` (R195): does nothing. -/
def execNop (s : State) : Answer := .next s

/-- `LLR_WR a` (R196): BUSY before RANGE (spec/30_encoding.md R85). -/
def execLlrWr (a : BitVec 12) (s : State) : Answer :=
  if s.busy then .next (s.raise .busy)
  else match colOperand a with
    | some col => .next (s.setLlr col (s.dataHi ++ s.dataLo))
    | none => .next (s.raise .range)

/-- `LLR_RD a` (R197): accepted at any phase. -/
def execLlrRd (a : BitVec 12) (s : State) : Answer :=
  match colOperand a with
  | some col =>
    let x := s.readLlr 0 col
    .next (s.drawn.setData (x.extractLsb' 32 32) (x.extractLsb' 0 32))
  | none => .next (s.raise .range)

/-- `CLEAR` (R199): accepted at any phase. -/
def execClear (s : State) : Answer :=
  .next { s with err := .none, done := false, chk := false, chkValid := false }

/-- The meaning of a command (R83). The last seven rows of the table have no command word (R89) and
the decoder never answers one; they get what a word that is no command gets. -/
def runCommandInstr (i : Instr) (s : State) : Answer :=
  match i with
  | .nop => execNop s
  | .llrWr a => execLlrWr a s
  | .llrRd a => execLlrRd a s
  | .decode => execDecode s
  | .check => execCheck s
  | .pack => execPack s
  | .hRd i a => execHRd i a s
  | .rowRd i k => execRowRd i k s
  | .colRd a k => execColRd a k s
  | .clear => execClear s
  | .regRd _ _ => .next (s.raise .illegal)
  | .regWr _ _ _ => .next (s.raise .illegal)
  | .init => .next (s.raise .illegal)
  | .conv => .next (s.raise .illegal)
  | .cnu => .next (s.raise .illegal)
  | .vnu => .next (s.raise .illegal)
  | .marg => .next (s.raise .illegal)

/-- A word written to `CMD` (spec/30_encoding.md R85): ILLEGAL if the decoder rejects it, else the
command, whose own checks are BUSY and then RANGE. -/
def runCommand (w : Word) (s : State) : Answer :=
  match decodeCommand w with
  | .ok i => runCommandInstr i s
  | .error _ => .next (s.raise .illegal)

/-- The only access the block accepts: 32 bits at a multiple of 4 (spec/20_memory.md R62). -/
def accepts (bits : Nat) (off : BitVec 8) : Bool :=
  decide (bits = 32) && decide (off.toNat % 4 = 0)

/-- What a read of the register at `off` returns (R190). -/
def regValue (off : BitVec 8) (s : State) : Word :=
  match off.toNat with
  | 0x00 => 0x4C445043
  | 0x04 => 0x00018420
  | 0x08 => 0
  | 0x0C => statusWord s
  | 0x10 => flagWord s.ie
  | 0x14 => s.cap.setWidth 32
  | 0x18 => (BitVec.ofNat 16 s.t).setWidth 32
  | 0x20 => s.dataLo
  | 0x24 => s.dataHi
  | 0x30 => s.msg.get 0
  | 0x34 => s.msg.get 1
  | 0x38 => s.msg.get 2
  | 0x3C => s.msg.get 3
  | _ => 0

/-- What an accepted write of `v` to `off` does (R191). Read-only and reserved offsets ignore it. -/
def writeReg (off : BitVec 8) (v : Word) (s : State) : Answer :=
  match off.toNat with
  | 0x08 => runCommand v s
  | 0x10 => .next { s with ie := v.getLsbD 0 }
  | 0x14 => if s.busy then .next (s.raise .busy) else .next { s with cap := v.setWidth 16 }
  | 0x20 => .next { s with dataLo := v }
  | 0x24 => .next { s with dataHi := v }
  | _ => .next s

/-- `REG_RD(off)` (R190): the value goes to the host, and no block state changes. -/
def execRegRd (bits : Nat) (off : BitVec 8) (s : State) : Answer :=
  if accepts bits off then .next { s with bus := .data (regValue off s) }
  else .next (s.refuseAccess off)

/-- `REG_WR(off, v)` (R191). -/
def execRegWr (bits : Nat) (off : BitVec 8) (v : Word) (s : State) : Answer :=
  if accepts bits off then writeReg off v s
  else .next (s.refuseAccess off)

end Sys2Proof.Machine
end

