-- ==== Sys2Proof/Machine/Dispatch.lean ====
section
/-! DEFINITION. One arm per instruction. -/

namespace Sys2Proof.Machine

/-- The meaning of every row of spec/opcode_table.json. -/
def exec (i : Instr) (s : State) : Host.Outcome State Fault Refusal :=
  match i with
  -- format C
  | .nop => Sys2Proof.Machine.execNop s
  | .llrWr a => Sys2Proof.Machine.execLlrWr a s
  | .llrRd a => Sys2Proof.Machine.execLlrRd a s
  | .decode => Sys2Proof.Machine.execDecode s
  | .check => Sys2Proof.Machine.execCheck s
  | .pack => Sys2Proof.Machine.execPack s
  | .hRd i' a => Sys2Proof.Machine.execHRd i' a s
  | .rowRd i' k => Sys2Proof.Machine.execRowRd i' k s
  | .colRd a k => Sys2Proof.Machine.execColRd a k s
  | .clear => Sys2Proof.Machine.execClear s
  -- bus
  | .regRd bits off => Sys2Proof.Machine.execRegRd bits off s
  | .regWr bits off v => Sys2Proof.Machine.execRegWr bits off v s
  -- engine-phase
  | .init => Sys2Proof.Machine.execInit s
  | .conv => Sys2Proof.Machine.execConv s
  | .cnu => Sys2Proof.Machine.execCnu s
  | .vnu => Sys2Proof.Machine.execVnu s
  | .marg => Sys2Proof.Machine.execMarg s

end Sys2Proof.Machine
end

