-- ==== Sys2Proof/Machine/Fetch.lean ====
section
/-! DEFINITION. Which step comes next (spec/10_state.md R20; spec/42_decoder.md R151; log 5). The block
fetches no code (spec/20_memory.md R73): a host step comes from the pending inputs, an engine step
from `phase`. -/

namespace Sys2Proof.Machine

/-- The engine's step in a phase, read through its code; the idle engine has none (R151). -/
def enginePhase (p : Phase) : Option Instr := (decodePhase p.code).toOption

/-- The next step, if it is an instruction, and the state it runs on. With no input pending the
engine steps if it can, else the machine idles. A host access leaves the list and the interface
accepts it unless the instruction says otherwise. -/
def fetch (s : State) : Option Instr × State :=
  match s.inputs with
  | [] => (enginePhase s.phase, s)
  | .engineTurn :: rest => (enginePhase s.phase, { s with inputs := rest })
  | .reset :: rest => (none, ({ s with inputs := rest } : State).resetStep)
  | .access acc :: rest => (some (decodeAccess acc), { s with inputs := rest, bus := .accepted })

/-- The machine placed so that its next step is the one of this encoding: an access, a command word
as a write to `CMD` at offset 0x08 (spec/30_encoding.md R80), or a phase with the engine's turn. -/
def placeNext (e : Encoding) (s : State) : State :=
  match e with
  | .bus acc => { s with inputs := .access acc :: s.inputs }
  | .command w => { s with inputs := .access (.write 32 0x08 w) :: s.inputs }
  | .phase code =>
    match Phase.ofCode code with
    | some p => { s with phase := p, inputs := .engineTurn :: s.inputs }
    | none => s

end Sys2Proof.Machine
end

