-- ==== Sys2Proof/Machine/Step.lean ====
section
/-! DEFINITION. One step of the machine, of whichever agent moves next (spec/10_state.md R20). -/

namespace Sys2Proof.Machine

/-- One atomic step (spec/20_memory.md R65, R69). -/
def step (s : State) : Host.Outcome State Fault Refusal :=
  match fetch s with
  | (some i, s') => exec i s'
  | (none, s') => .next s'

/-- `s` with a word of spec/opcode_table.json placed so that the very next step runs it (log 5). -/
def State.withFetchWord (s : State) (nbits w : Nat) : State :=
  match encodingOfTableWord nbits w with
  | some e => placeNext e s
  | none => s

end Sys2Proof.Machine
end

