-- ==== Sys2Proof/Safety.lean ====
section
/-! DEFINITION. The terms the statements use: the invariant of the machine, which step comes next, the
first failing check of a command word, and the stopping reading of a step (spec/60_exceptions.md R222;
spec/70_reset_and_hazards.md R251). -/

namespace Sys2Proof.Machine

/-- Every LLR entry was written since reset (spec/70_reset_and_hazards.md R254 asks it of software). -/
def State.allWritten (s : State) : Prop := ∀ a, s.written.get a = true

/-- What holds of every state a run reaches. -/
structure State.Inv (s : State) : Prop where
  /-- While a decode runs no outcome and no message show (spec/70_reset_and_hazards.md R262). -/
  running_shows_nothing : s.busy = true → s.done = false ∧ s.result = .none ∧ ∀ w, s.msg.get w = 0
  /-- `t` never exceeds `CAP` in a decode (spec/42_decoder.md R153). -/
  t_le_cap : s.busy = true → s.t ≤ s.cap.toNat
  /-- An update pass runs only with iterations left (R153). -/
  update_below_cap : s.phase = .cnu ∨ s.phase = .vnu ∨ s.phase = .marg → s.t < s.cap.toNat
  /-- `INIT` comes with `t` = 0 (R150). -/
  init_t_zero : s.phase = .init → s.t = 0
  /-- `ITER_COUNT` shows all of `t` (spec/10_state.md R26). -/
  t_visible : s.t < 65536
  /-- `DONE` comes with an outcome (R153). -/
  done_has_result : s.done = true → s.result ≠ .none
  /-- `CHK` is set by a `CHECK` (spec/10_state.md R30). -/
  chk_is_valid : s.chk = true → s.chkValid = true
  /-- The zero invariant, `u` (spec/10_state.md R25). -/
  u_zero_off_edges : s.phase ≠ .idle → s.phase ≠ .init → ∀ i a, hBit i a = false →
    (s.u.get i).get a = Fp.posZero
  /-- The zero invariant, `v` (R25). -/
  v_zero_off_edges : s.phase ≠ .idle → s.phase ≠ .init → ∀ i a, hBit i a = false →
    (s.v.get a).get i = Fp.posZero

/-- The command word the next step carries out, if it is an accepted write to `CMD`. -/
def State.nextCommand (s : State) : Option Word :=
  match s.inputs with
  | .access (.write bits off v) :: _ => if bits = 32 ∧ off = 0x08 then some v else none
  | _ => none

/-- The next step is a reset. -/
def State.nextIsReset (s : State) : Bool :=
  match s.inputs with
  | .reset :: _ => true
  | _ => false

/-- The next step is the engine's. -/
def State.engineMoves (s : State) : Bool :=
  match s.inputs with
  | [] => true
  | .engineTurn :: _ => true
  | _ => false

/-- `n` steps of the machine. -/
abbrev runSteps (n : Nat) (s : State) : Answer := Host.Core.run Sys2Proof.core n s

/-- The machine with nothing pending: left alone, it takes engine steps (log 5). -/
def State.alone (s : State) : State := { s with inputs := [] }

/-- A NaN, or a value in [−1.0, 1.0]. -/
def inUnitOrNaN (p : F64) : Prop :=
  Fp.isNaN p = true ∨ (Fp.le Fp.negOne p = true ∧ Fp.le p Fp.one = true)

/-- Exact values in units of 2^−1074 from which on round-to-nearest overflows to ±∞: halfway between the
largest finite value and 2^1024. -/
def overflowUnits : Nat := (2 ^ 54 - 1) * 2 ^ 2044

/-- Of all finite values `z`, `r` is one nearest to the exact value `n / scale` (in units of 2^−1074),
and if another is as near, the significand of `r` is even. -/
def IsNearestEven (r : F64) (n : Int) (scale : Nat) : Prop :=
  ∀ z, Fp.isFinite z = true →
    |Fp.value r * scale - n| ≤ |Fp.value z * scale - n| ∧
    (|Fp.value r * scale - n| = |Fp.value z * scale - n| → Fp.value z ≠ Fp.value r →
      Fp.mag r % 2 = 0)

/-- The ILLEGAL check of spec/30_encoding.md R85. -/
abbrev wordIllegal (w : Word) : Prop :=
  0x09 < (opcField w).toNat ∨
  ((opcField w).toNat ∈ [0x00, 0x03, 0x04, 0x05, 0x09] ∧ (aField w ≠ 0 ∨ bField w ≠ 0)) ∨
  ((opcField w).toNat ∈ [0x01, 0x02] ∧ aField w ≠ 0)

/-- The BUSY check of R85. -/
abbrev wordBusy (w : Word) (s : State) : Prop :=
  s.busy = true ∧ (opcField w).toNat ∈ [0x01, 0x03, 0x05]

/-- The RANGE check of R84. -/
abbrev wordRange (w : Word) : Prop :=
  ((opcField w).toNat ∈ [0x01, 0x02] ∧ 256 ≤ (bField w).toNat) ∨
  ((opcField w).toNat = 0x06 ∧ (128 ≤ (aField w).toNat ∨ 256 ≤ (bField w).toNat)) ∨
  ((opcField w).toNat = 0x07 ∧ (128 ≤ (aField w).toNat ∨ 8 ≤ (bField w).toNat)) ∨
  ((opcField w).toNat = 0x08 ∧ (256 ≤ (aField w).toNat ∨
    (if (aField w).toNat < 128 then 5 else 3) ≤ (bField w).toNat))

/-- What the decode in progress rests on and gives out (spec/42_decoder.md R165). -/
structure DecodeView where
  llr : Vector F64 256
  r : Vector F64 256
  u : Vector (Vector F64 256) 128
  v : Vector (Vector F64 128) 256
  phase : Phase
  t : Nat
  cap : BitVec 16
  done : Bool
  result : Result
  msg : Vector Word 4
  deriving DecidableEq, Repr

/-- The decode view of a state. -/
def State.decodeView (s : State) : DecodeView :=
  { llr := s.llr, r := s.r, u := s.u, v := s.v, phase := s.phase, t := s.t, cap := s.cap,
    done := s.done, result := s.result, msg := s.msg }

/-- The LLR entries a command reads, when it is accepted. -/
def commandReads (i : Instr) (s : State) : List Col :=
  match i with
  | .llrRd a => (colOperand a).toList
  | .check => allCols
  | .pack => if s.busy then [] else allCols.filter fun a => a.val < packBits
  | .nop => []
  | .llrWr _ => []
  | .decode => []
  | .hRd _ _ => []
  | .rowRd _ _ => []
  | .colRd _ _ => []
  | .clear => []
  | .regRd _ _ => []
  | .regWr _ _ _ => []
  | .init => []
  | .conv => []
  | .cnu => []
  | .vnu => []
  | .marg => []

/-- The LLR entries an instruction reads (R251). -/
def llrReads (i : Instr) (s : State) : List Col :=
  match i with
  | .init => allCols
  | .vnu => allCols
  | .marg => allCols
  | .regWr bits off w =>
    if bits = 32 ∧ off = 0x08 then
      match decodeCommand w with
      | .ok c => commandReads c s
      | .error _ => []
    else []
  | c => commandReads c s

/-- The offset at which the interface refuses this access, if it does
(spec/20_memory.md R62). -/
def refusedAt : Instr → Option (BitVec 8)
  | .regRd bits off => if accepts bits off then none else some off
  | .regWr bits off _ => if accepts bits off then none else some off
  | _ => none

/-- The instruction reads an entry not written since reset. -/
def readsUnwritten (i : Instr) (s : State) : Bool := (llrReads i s).any fun a => !s.written.get a

/-- The stopping reading of an instruction: it faults where R222 and R251 give a model a fault. -/
def strictExec (i : Instr) (s : State) : Answer :=
  match refusedAt i with
  | some off => .fault (.refusedBusAccess off)
  | none => if readsUnwritten i s then .fault .unwrittenLlrRead else exec i s

/-- The stopping reading of a step. A run of it that never faults is a safe run. -/
def strictStep (s : State) : Answer :=
  match fetch s with
  | (some i, s') => strictExec i s'
  | (none, s') => .next s'

end Sys2Proof.Machine
end

