-- ==== Sys2Proof/Certificates/Slice0/Obligations.lean ====
section
/-! DEFINITION. The statements about the model. Each docstring names the rule it formalises. Where a
statement names `draws`, `bus`, `inputs` or an unwritten entry, that clause is about the model's own
fields (notes/assumptions/1.md, 4.md, 5.md, 6.md). -/

open Sys2Proof Sys2Proof.Machine

/-! ### Encoding -/

/-- Words written out from spec/30_encoding.md R83, R87 and spec/10_state.md R26 decode to the steps
they stand for. -/
def Obligations.SpecWordsDecode : Prop :=
  decodeCommand 0x00000000 = .ok .nop ∧
  decodeCommand 0x01000005 = .ok (.llrWr 5) ∧
  decodeCommand 0x02000005 = .ok (.llrRd 5) ∧
  decodeCommand 0x03000000 = .ok .decode ∧
  decodeCommand 0x04000000 = .ok .check ∧
  decodeCommand 0x05000000 = .ok .pack ∧
  decodeCommand 0x0607F0DF = .ok (.hRd 127 223) ∧
  decodeCommand 0x0707F007 = .ok (.rowRd 127 7) ∧
  decodeCommand 0x080FF002 = .ok (.colRd 255 2) ∧
  decodeCommand 0x09000000 = .ok .clear ∧
  decode (.phase 0b001) = .ok .init ∧
  decode (.phase 0b101) = .ok .marg

/-- R83, R89: decoding and encoding are inverse to each other, on every instruction and on every
encoding that stands for one. -/
def Obligations.DecodeAndEncodeAreInverse : Prop :=
  (∀ i : Instr, i.wellFormed = true → decode (encode i) = .ok i) ∧
  (∀ (e : Encoding) (i : Instr), decode e = .ok i → encode i = e)

/-- R86: every opcode from 0x0A on, and every nonzero operand field that its command does not use, is
illegal: writing the word to `CMD` raises ILLEGAL, and `raise` touches `ERR` alone. -/
def Obligations.ReservedWordsAreIllegal : Prop :=
  ∀ (w : Word) (s : State), wordIllegal w →
    (∃ e, decodeCommand w = .error e) ∧
    exec (.regWr 32 0x08 w) s = .next { s with err := if s.err = .none then .illegal else s.err }

/-- R85 with R84 and R227: the first failing check, in the order ILLEGAL, BUSY, RANGE, decides the
error; with none failing the command's own meaning runs, and it raises no error. -/
def Obligations.FirstFailingCheckDecides : Prop :=
  ∀ (w : Word) (s : State),
    (wordIllegal w → exec (.regWr 32 0x08 w) s = .next (s.raise .illegal)) ∧
    (¬ wordIllegal w → wordBusy w s → exec (.regWr 32 0x08 w) s = .next (s.raise .busy)) ∧
    (¬ wordIllegal w → ¬ wordBusy w s → wordRange w →
      exec (.regWr 32 0x08 w) s = .next (s.raise .range)) ∧
    (¬ wordIllegal w → ¬ wordBusy w s → ¬ wordRange w →
      ∃ i t, decodeCommand w = .ok i ∧ exec (.regWr 32 0x08 w) s = exec i s ∧ exec i s = .next t ∧
        (t.err = s.err ∨ i = .clear ∧ t.err = .none))

/-! ### Errors -/

/-- R224, R226: a rejected command, or a rejected write to `ITER_CAP`, changes only `ERR`, and only
when it was NONE. -/
def Obligations.RejectionChangesOnlyErr : Prop :=
  (∀ (e : ErrCode) (s : State), (s.err = .none → s.raise e = { s with err := e }) ∧
    (s.err ≠ .none → s.raise e = s)) ∧
  (∀ (w : Word) (s : State), wordIllegal w ∨ wordBusy w s ∨ wordRange w →
    ∃ t, exec (.regWr 32 0x08 w) s = .next t ∧ t = { s with err := t.err } ∧
      (s.err = .none → t.err ≠ .none) ∧ (s.err ≠ .none → t = s)) ∧
  (∀ (v : Word) (s : State), s.busy = true →
    ∃ t, exec (.regWr 32 0x14 v) s = .next t ∧ t = { s with err := t.err } ∧
      (s.err = .none → t.err = .busy) ∧ (s.err ≠ .none → t = s))

/-- R62, R222: any access but a 32-bit one at a multiple of 4 is refused; the answer records the
offset and no other state changes (log 6). The stopping reading faults it and records the offset. -/
def Obligations.OtherAccessesAreRefused : Prop :=
  ∀ (bits : Nat) (off : BitVec 8) (v : Word) (s : State), bits ≠ 32 ∨ off.toNat % 4 ≠ 0 →
    exec (.regRd bits off) s = .next { s with bus := .refused off } ∧
    exec (.regWr bits off v) s = .next { s with bus := .refused off } ∧
    strictExec (.regRd bits off) s = .fault (.refusedBusAccess off) ∧
    strictExec (.regWr bits off v) s = .fault (.refusedBusAccess off)

/-- R224, R230 over every step: a recorded error stays until `CLEAR` or a reset. -/
def Obligations.ErrIsStickyUntilClearOrReset : Prop :=
  ∀ s t : State, step s = .next t → s.err ≠ .none →
    t.err = s.err ∨ (t.err = .none ∧ (s.nextIsReset = true ∨ s.nextCommand = some 0x09000000))

/-! ### Housekeeping and the LLR buffer -/

/-- R195: `NOP` changes no state, at any phase; a word of its opcode with a nonzero operand is
ILLEGAL. -/
def Obligations.NopChangesNothing : Prop :=
  decodeCommand 0x00000000 = .ok .nop ∧
  (∀ s : State, exec .nop s = .next s ∧ exec (.regWr 32 0x08 0x00000000) s = .next s) ∧
  (∀ (w : Word) (s : State), opcField w = 0x00 → aField w ≠ 0 ∨ bField w ≠ 0 →
    exec (.regWr 32 0x08 w) s = .next (s.raise .illegal))

/-- R196: `LLR_WR a` stores `DATA` in `LLR[a]` and marks it written; nothing else changes. BUSY
comes before RANGE; a nonzero `A` is ILLEGAL. -/
def Obligations.LlrWrStoresData : Prop :=
  (∀ (a : BitVec 12) (s : State) (h : a.toNat < 256), s.busy = false →
    exec (.llrWr a) s = .next { s with
      llr := s.llr.set a.toNat (s.dataHi ++ s.dataLo)
      written := s.written.set a.toNat true }) ∧
  (∀ (a : BitVec 12) (s : State), s.busy = true → exec (.llrWr a) s = .next (s.raise .busy)) ∧
  (∀ (a : BitVec 12) (s : State), s.busy = false → 256 ≤ a.toNat →
    exec (.llrWr a) s = .next (s.raise .range)) ∧
  (∀ a : BitVec 12, decodeCommand (0x01000000 ||| a.setWidth 32) = .ok (.llrWr a)) ∧
  (∀ (w : Word) (s : State), opcField w = 0x01 → aField w ≠ 0 →
    exec (.regWr 32 0x08 w) s = .next (s.raise .illegal))

/-- R197: `LLR_RD a` loads `DATA` from `LLR[a]`, at any phase; an entry not written since reset gives
some value, and a fault in the stopping reading; out of range is RANGE, a nonzero `A` ILLEGAL. -/
def Obligations.LlrRdLoadsData : Prop :=
  (∀ (a : BitVec 12) (s : State) (h : a.toNat < 256), s.written.get ⟨a.toNat, h⟩ = true →
    exec (.llrRd a) s = .next { s with
      dataLo := (s.llr.get ⟨a.toNat, h⟩).extractLsb' 0 32
      dataHi := (s.llr.get ⟨a.toNat, h⟩).extractLsb' 32 32
      draws := s.draws + 1 }) ∧
  (∀ (a : BitVec 12) (s : State) (h : a.toNat < 256), s.written.get ⟨a.toNat, h⟩ = false →
    (∃ lo hi, exec (.llrRd a) s = .next { s with
      dataLo := lo, dataHi := hi, draws := s.draws + 1 }) ∧
    strictExec (.llrRd a) s = .fault .unwrittenLlrRead) ∧
  (∀ (a : BitVec 12) (s : State), 256 ≤ a.toNat → exec (.llrRd a) s = .next (s.raise .range)) ∧
  (∀ a : BitVec 12, decodeCommand (0x02000000 ||| a.setWidth 32) = .ok (.llrRd a)) ∧
  (∀ (w : Word) (s : State), opcField w = 0x02 → aField w ≠ 0 →
    exec (.regWr 32 0x08 w) s = .next (s.raise .illegal))

/-- R23 over every step but a reset: `LLR` and its written marks change only in an accepted `LLR_WR`
(R196), and then in the entry it names alone. A reset clears every mark (R250); that it keeps the
patterns in `LLR` is the model's choice (log 3). -/
def Obligations.OnlyLlrWrWritesTheBuffer : Prop :=
  ∀ s t : State, step s = .next t →
    (s.nextIsReset = false → t.llr ≠ s.llr ∨ t.written ≠ s.written →
      ∃ (w : Word) (a : Col), s.nextCommand = some w ∧
        opcField w = 0x01 ∧ aField w = 0 ∧ (bField w).toNat = a.val ∧ s.busy = false ∧
        t.llr = s.llr.set a (s.dataHi ++ s.dataLo) ∧ t.written = s.written.set a true) ∧
    (s.nextIsReset = true → (∀ a, t.written.get a = false) ∧ t.llr = s.llr)

/-- R199: `CLEAR` clears `ERR`, `DONE`, `CHK` and `CHK_VALID`, so `irq` drops, and keeps everything
else, at any phase; with nonzero operands it is ILLEGAL and clears nothing. -/
def Obligations.ClearAcknowledges : Prop :=
  decodeCommand 0x09000000 = .ok .clear ∧
  (∀ s : State, exec .clear s = .next { s with
    err := .none, done := false, chk := false, chkValid := false }) ∧
  (∀ s t : State, exec .clear s = .next t → t.irq = false) ∧
  (∀ (w : Word) (s : State), opcField w = 0x09 → aField w ≠ 0 ∨ bField w ≠ 0 →
    exec (.regWr 32 0x08 w) s = .next (s.raise .illegal))

/-! ### Bus accesses and registers -/

/-- R190: what an accepted read returns, offset by offset, and that it changes no block state; any
other read is refused. -/
def Obligations.RegRdReturnsRegister : Prop :=
  (∀ (s : State) (bits : Nat) (off : BitVec 8), bits ≠ 32 ∨ off.toNat % 4 ≠ 0 →
    exec (.regRd bits off) s = .next { s with bus := .refused off }) ∧
  ∀ (s : State) (off : BitVec 8), off.toNat % 4 = 0 →
    exec (.regRd 32 off) s = .next { s with bus := .data (
      if off = 0x00 then 0x4C445043
      else if off = 0x04 then 0x00018420
      else if off = 0x0C then statusWord s
      else if off = 0x10 then (if s.ie then 1 else 0)
      else if off = 0x14 then s.cap.setWidth 32
      else if off = 0x18 then (BitVec.ofNat 16 s.t).setWidth 32
      else if off = 0x20 then s.dataLo
      else if off = 0x24 then s.dataHi
      else if off = 0x30 then s.msg.get 0
      else if off = 0x34 then s.msg.get 1
      else if off = 0x38 then s.msg.get 2
      else if off = 0x3C then s.msg.get 3
      else 0) }

/-- R191: what an accepted write does, offset by offset; any other write is refused. -/
def Obligations.RegWrWritesRegister : Prop :=
  ∀ (s : State) (v : Word),
    (∀ (bits : Nat) (off : BitVec 8), bits ≠ 32 ∨ off.toNat % 4 ≠ 0 →
      exec (.regWr bits off v) s = .next { s with bus := .refused off }) ∧
    (∀ i, decodeCommand v = .ok i → exec (.regWr 32 0x08 v) s = exec i s) ∧
    (∀ e, decodeCommand v = .error e → exec (.regWr 32 0x08 v) s = .next (s.raise .illegal)) ∧
    exec (.regWr 32 0x10 v) s = .next { s with ie := v.getLsbD 0 } ∧
    (s.busy = true → exec (.regWr 32 0x14 v) s = .next (s.raise .busy)) ∧
    (s.busy = false → exec (.regWr 32 0x14 v) s = .next { s with cap := v.setWidth 16 }) ∧
    exec (.regWr 32 0x20 v) s = .next { s with dataLo := v } ∧
    exec (.regWr 32 0x24 v) s = .next { s with dataHi := v } ∧
    (∀ off : BitVec 8, off.toNat % 4 = 0 → off ≠ 0x08 → off ≠ 0x10 → off ≠ 0x14 → off ≠ 0x20 →
      off ≠ 0x24 → exec (.regWr 32 off v) s = .next s)

/-- R192, R31: `STATUS`, bit by bit, with the codes of `RESULT` (R30), `ERR` (R221) and `PHASE` (R26)
written out; `BUSY`, `IRQ` and `PHASE` are live views, and `ERR` is at most 3. -/
def Obligations.StatusShowsItsFields : Prop :=
  ∀ s : State,
    (statusWord s).getLsbD 0 = decide (s.phase ≠ .idle) ∧
    (statusWord s).getLsbD 1 = s.done ∧
    (statusWord s).extractLsb' 2 2 =
      (match s.result with | .none => 0 | .decoded => 1 | .notDecoded => 2) ∧
    (statusWord s).getLsbD 4 = s.chk ∧
    (statusWord s).getLsbD 5 = s.chkValid ∧
    (statusWord s).getLsbD 6 = (s.ie && s.done) ∧
    (statusWord s).getLsbD 7 = false ∧
    (statusWord s).extractLsb' 8 4 =
      (match s.err with | .none => 0 | .illegal => 1 | .range => 2 | .busy => 3) ∧
    ((statusWord s).extractLsb' 8 4).toNat ≤ 3 ∧
    (statusWord s).extractLsb' 12 3 =
      (match s.phase with
        | .idle => 0 | .init => 1 | .conv => 2 | .cnu => 3 | .vnu => 4 | .marg => 5) ∧
    (statusWord s).extractLsb' 15 17 = 0

/-- R66: a read changes nothing but the answer the host gets; writes to the read-write registers are
idempotent; writes to read-only and reserved offsets do nothing; each write to `CMD` carries out one
command, so the second of two `DECODE` words is BUSY where the first was accepted. -/
def Obligations.AccessSideEffects : Prop :=
  (∀ (bits : Nat) (off : BitVec 8) (s : State), ∃ b,
    exec (.regRd bits off) s = .next { s with bus := b }) ∧
  (∀ (off : BitVec 8) (v : Word) (s t : State), off ∈ [0x10, 0x14, 0x20, 0x24] →
    exec (.regWr 32 off v) s = .next t → exec (.regWr 32 off v) t = .next t) ∧
  (∀ (off : BitVec 8) (v : Word) (s : State), off.toNat % 4 = 0 →
    off ∉ [0x08, 0x10, 0x14, 0x20, 0x24] → exec (.regWr 32 off v) s = .next s) ∧
  (∀ s : State, s.busy = false → s.err = .none →
    ∃ t, exec (.regWr 32 0x08 0x03000000) s = .next t ∧ t.busy = true ∧ t.err = .none ∧
      exec (.regWr 32 0x08 0x03000000) t = .next { t with err := .busy })

/-- R35: every value written to `ITER_CAP` while idle reads back as its low 16 bits. -/
def Obligations.IterCapReadsBack : Prop :=
  ∀ (v : Word) (s : State), s.busy = false →
    ∃ t, exec (.regWr 32 0x14 v) s = .next t ∧ exec (.regRd 32 0x14) t =
      .next { t with bus := .data (v &&& 0x0000FFFF) }

/-- R61: an access reaches the block from `BASE`, a multiple of 256, up to `BASE + 255`, at its
distance from `BASE`. -/
def Obligations.WindowIsAtBase : Prop :=
  Config.base % 256 = 0 ∧
  (∀ k : Nat, k < 256 → windowOffset (Config.base + k) = some (BitVec.ofNat 8 k)) ∧
  (∀ addr : Nat, addr < Config.base ∨ Config.base + 256 ≤ addr → windowOffset addr = none)

/-- R38: byte `msg[4w + j]` is byte lane `j` of `MSGw`. -/
def Obligations.MessageBytesAreLanes : Prop :=
  ∀ (out : Vector Byte 16) (s : State) (w j : Fin 4),
    ((s.setMsg out).msg.get w).extractLsb' (8 * j.val) 8 = out.get ⟨4 * w.val + j.val, by omega⟩

/-- R231: the interrupt is `IE` and `DONE`. The end of a decode sets `DONE`; `CLEAR` and an accepted
`DECODE` clear it; `IE` = 0 masks and keeps it; a rejected command, `CHECK` and `PACK` leave it. -/
def Obligations.InterruptIsEnableAndDone : Prop :=
  (∀ s : State, s.irq = (s.ie && s.done)) ∧
  (∀ s t : State, exec .conv s = .next t → t.phase = .idle → t.done = true ∧ t.irq = s.ie) ∧
  (∀ s t : State, exec .clear s = .next t → t.irq = false) ∧
  (∀ s t : State, s.busy = false → exec .decode s = .next t → t.irq = false) ∧
  (∀ (v : Word) (s t : State), v.getLsbD 0 = false → exec (.regWr 32 0x10 v) s = .next t →
    t.irq = false ∧ t.done = s.done) ∧
  (∀ (e : ErrCode) (s : State), (s.raise e).irq = s.irq) ∧
  (∀ s t : State, exec .check s = .next t ∨ exec .pack s = .next t → t.irq = s.irq)

/-! ### Code structure -/

/-- R105, R106: both indices are strictly ascending and list exactly the ones of H. -/
def Obligations.ConnectivityListsTheOnesOfH : Prop :=
  (∀ i : Row, (connsRow i).Pairwise (· < ·) ∧ ∀ a : Col, a ∈ connsRow i ↔ hBit i a = true) ∧
  (∀ a : Col, (connsCol a).Pairwise (· < ·) ∧ ∀ i : Row, i ∈ connsCol a ↔ hBit i a = true)

/-- R107: the two indices agree; every row has weight 8, columns have weight 5 or 3, and there are
1024 edges counted either way. -/
def Obligations.ConnectivityWeights : Prop :=
  (∀ (i : Row) (a : Col), a ∈ connsRow i ↔ i ∈ connsCol a) ∧
  (∀ i : Row, (connsRow i).length = 8) ∧
  (∀ a : Col, (connsCol a).length = if a.val < 128 then 5 else 3) ∧
  (allRows.map fun i => (connsRow i).length).sum = 1024 ∧
  (allCols.map fun a => (connsCol a).length).sum = 1024

/-- R109: `H_RD i, a` loads the bit `H[i][a]`; out of range is RANGE. -/
def Obligations.HRdReadsOneBit : Prop :=
  (∀ (i a : BitVec 12) (s : State) (hi : i.toNat < 128) (ha : a.toNat < 256),
    exec (.hRd i a) s = .next { s with
      dataLo := if hBit ⟨i.toNat, hi⟩ ⟨a.toNat, ha⟩ then 1 else 0
      dataHi := 0 }) ∧
  (∀ (i a : BitVec 12) (s : State), 128 ≤ i.toNat ∨ 256 ≤ a.toNat →
    exec (.hRd i a) s = .next (s.raise .range)) ∧
  (∀ i a : BitVec 12,
    decodeCommand (0x06000000 ||| (i.setWidth 32 <<< 12) ||| a.setWidth 32) = .ok (.hRd i a)) ∧
  hBit 0 31 = true ∧ hBit 0 30 = false

/-- R110: `ROW_RD i, k` loads entry `k` of `conns_row[i]` and the row weight 8; out of range is
RANGE. -/
def Obligations.RowRdReadsRowIndex : Prop :=
  (∀ (i k : BitVec 12) (s : State) (hi : i.toNat < 128), k.toNat < 8 →
    ∃ a : Col, (connsRow ⟨i.toNat, hi⟩)[k.toNat]? = some a ∧
      exec (.rowRd i k) s = .next { s with dataLo := BitVec.ofNat 32 a.val, dataHi := 8 }) ∧
  (∀ (i k : BitVec 12) (s : State), 128 ≤ i.toNat ∨ 8 ≤ k.toNat →
    exec (.rowRd i k) s = .next (s.raise .range)) ∧
  (∀ i k : BitVec 12,
    decodeCommand (0x07000000 ||| (i.setWidth 32 <<< 12) ||| k.setWidth 32) = .ok (.rowRd i k)) ∧
  (connsRow 0)[1]? = some 31 ∧ (connsRow 127)[7]? = some 223

/-- R111: `COL_RD a, k` loads entry `k` of `conns_col[a]` and the column weight, 5 or 3; out of range
is RANGE. -/
def Obligations.ColRdReadsColumnIndex : Prop :=
  (∀ (a k : BitVec 12) (s : State) (ha : a.toNat < 256),
    k.toNat < (if a.toNat < 128 then 5 else 3) →
    ∃ i : Row, (connsCol ⟨a.toNat, ha⟩)[k.toNat]? = some i ∧
      exec (.colRd a k) s = .next { s with
        dataLo := BitVec.ofNat 32 i.val
        dataHi := if a.toNat < 128 then 5 else 3 }) ∧
  (∀ (a k : BitVec 12) (s : State),
    256 ≤ a.toNat ∨ (if a.toNat < 128 then 5 else 3) ≤ k.toNat →
    exec (.colRd a k) s = .next (s.raise .range)) ∧
  (∀ a k : BitVec 12,
    decodeCommand (0x08000000 ||| (a.setWidth 32 <<< 12) ||| k.setWidth 32) = .ok (.colRd a k)) ∧
  (connsCol 0)[2]? = some 36 ∧ (connsCol 255)[2]? = some 74

/-! ### Convergence test and packer -/

/-- R130: `IsCodeword(x)` holds iff in every row the number of columns that decide to 1 is even. -/
def Obligations.CodewordIffEverySyndromeEven : Prop :=
  ∀ x : Vector F64 256, isCodeword x = true ↔
    ∀ i : Row, ((connsRow i).countP fun a => Fp.hard (x.get a)) % 2 = 0

/-- R132: the packed message, bit by bit, for both values of `PACK_BITS`; this hardware has 64. -/
def Obligations.PackedBitsAreHardDecisions : Prop :=
  packBits = 64 ∧
  ∀ (bits : Nat) (x : Vector F64 256) (a : Nat) (h : a < 128), bits = 64 ∨ bits = 128 →
    ((packMessage bits x).get ⟨a / 8, by omega⟩).getLsbD (7 - a % 8) =
      (decide (a < bits) && Fp.le0 (x.get ⟨a, by omega⟩))

/-- R133 (a), (d): the test and the packer see only the 256 hard decisions; one decision flipped in a
codeword fails exactly the rows of that column. -/
def Obligations.SingleFlipFailsItsRows : Prop :=
  (∀ x y : Vector F64 256, (∀ a, Fp.hard (x.get a) = Fp.hard (y.get a)) →
    isCodeword x = isCodeword y ∧ ∀ bits, packMessage bits x = packMessage bits y) ∧
  (∀ (x y : Vector F64 256) (a0 : Col), isCodeword x = true →
    (∀ a, a ≠ a0 → Fp.hard (y.get a) = Fp.hard (x.get a)) →
    Fp.hard (y.get a0) ≠ Fp.hard (x.get a0) →
    ∀ i : Row, syndrome y i = true ↔ i ∈ connsCol a0)

/-- R131: `CHECK` writes `CHK` and `CHK_VALID` and nothing else, at any phase; with nonzero operands
it is ILLEGAL; the stopping reading faults on an unwritten entry. -/
def Obligations.CheckTestsTheBuffer : Prop :=
  (∀ s : State, s.allWritten → exec .check s = .next { s with
    chk := isCodeword s.llr, chkValid := true, draws := s.draws + 1 }) ∧
  (∀ s : State, ∃ c, exec .check s = .next { s with
    chk := c, chkValid := true, draws := s.draws + 1 }) ∧
  (∀ s : State, ¬ s.allWritten → strictExec .check s = .fault .unwrittenLlrRead) ∧
  decodeCommand 0x04000000 = .ok .check ∧
  (∀ (w : Word) (s : State), opcField w = 0x04 → aField w ≠ 0 ∨ bField w ≠ 0 →
    exec (.regWr 32 0x08 w) s = .next (s.raise .illegal))

/-- R134: `PACK` writes the packed hard decisions of `LLR[0..63]` to `MSG0..3`, of which `MSG2` and
`MSG3` become 0, and nothing else; with unwritten entries the bits of the written ones are still theirs,
and the other bits are any (log 1); BUSY while a decode runs, ILLEGAL with nonzero operands. -/
def Obligations.PackPacksTheBuffer : Prop :=
  (∀ s : State, s.busy = false → (∀ a : Col, a.val < 64 → s.written.get a = true) →
    ∃ t, exec .pack s = .next t ∧ t = { s with msg := t.msg, draws := s.draws + 1 } ∧
      (∀ w, t.msg.get w = msgWord (packMessage 64 s.llr) w) ∧ t.msg.get 2 = 0 ∧ t.msg.get 3 = 0) ∧
  (∀ s : State, s.busy = false →
    ∃ t, exec .pack s = .next t ∧ t = { s with msg := t.msg, draws := s.draws + 1 } ∧
      (∀ a : Fin 64, s.written.get ⟨a.val, by omega⟩ = true →
        (t.msg.get ⟨a.val / 32, by omega⟩).getLsbD (8 * (a.val / 8 % 4) + (7 - a.val % 8)) =
          Fp.hard (s.llr.get ⟨a.val, by omega⟩)) ∧
      t.msg.get 2 = 0 ∧ t.msg.get 3 = 0) ∧
  (∀ s : State, s.busy = true → exec .pack s = .next (s.raise .busy)) ∧
  (∀ s : State, s.busy = false → (∃ a : Col, a.val < 64 ∧ s.written.get a = false) →
    strictExec .pack s = .fault .unwrittenLlrRead) ∧
  decodeCommand 0x05000000 = .ok .pack ∧
  (∀ (w : Word) (s : State), opcField w = 0x05 → aField w ≠ 0 ∨ bField w ≠ 0 →
    exec (.regWr 32 0x08 w) s = .next (s.raise .illegal))

/-- R38 over every step: `MSG0..3` change only in `PACK`, in an accepted `DECODE`, in a `CONV` that
decodes, and in a reset. -/
def Obligations.MessageWriters : Prop :=
  ∀ s t : State, step s = .next t → t.msg ≠ s.msg →
    s.nextIsReset = true ∨
    (s.busy = false ∧ (s.nextCommand = some 0x05000000 ∨ s.nextCommand = some 0x03000000)) ∨
    (s.engineMoves = true ∧ s.phase = .conv ∧ t.result = .decoded)

/-! ### Floating point -/

/-- R12, R135: the hard decision is 1 exactly for both zeros and for non-NaN values with the sign
bit set. -/
def Obligations.HardDecisionOfSpecialValues : Prop :=
  (∀ x : F64, Fp.hard x =
    (!Fp.isNaN x && (x == 0x0000000000000000 || x.getLsbD 63))) ∧
  (∀ x : F64, Fp.isNaN x = (x.extractLsb' 52 11 == 0x7FF && x.extractLsb' 0 52 != 0)) ∧
  Fp.hard 0x0000000000000000 = true ∧ Fp.hard 0x8000000000000000 = true ∧
  Fp.hard 0x0000000000000001 = false ∧ Fp.hard 0xBFF0000000000000 = true ∧
  Fp.hard 0x7FF0000000000000 = false ∧ Fp.hard 0xFFF0000000000000 = true

/-- R11: on finite operands `fadd` rounds the exact sum to nearest, ties to even, with overflow to
±∞; an exact zero is +0.0 unless both operands are negative. -/
def Obligations.FaddRoundsToNearestEven : Prop :=
  ∀ x y : F64, Fp.isFinite x = true → Fp.isFinite y = true →
    let sum := Fp.value x + Fp.value y
    (sum = 0 → Fp.fadd x y = if Fp.sign x && Fp.sign y then Fp.negZero else Fp.posZero) ∧
    (sum ≠ 0 → Fp.sign (Fp.fadd x y) = decide (sum < 0)) ∧
    (overflowUnits ≤ sum.natAbs → Fp.isInf (Fp.fadd x y) = true) ∧
    (sum.natAbs < overflowUnits → Fp.isFinite (Fp.fadd x y) = true ∧
      IsNearestEven (Fp.fadd x y) sum 1)

/-- R11: on finite operands `fmul` rounds the exact product to nearest, ties to even, with overflow
to ±∞; the sign is the exclusive or of the signs. -/
def Obligations.FmulRoundsToNearestEven : Prop :=
  ∀ x y : F64, Fp.isFinite x = true → Fp.isFinite y = true →
    let product := Fp.value x * Fp.value y
    Fp.sign (Fp.fmul x y) = (Fp.sign x ^^ Fp.sign y) ∧
    (overflowUnits * 2 ^ 1074 ≤ product.natAbs → Fp.isInf (Fp.fmul x y) = true) ∧
    (product.natAbs < overflowUnits * 2 ^ 1074 → Fp.isFinite (Fp.fmul x y) = true ∧
      IsNearestEven (Fp.fmul x y) product (2 ^ 1074))

/-- R11, R162: what the three operations do with NaNs and infinities, and that `fhalf` of a finite
value is `x / 2.0` rounded to nearest, ties to even, and exact once the exponent field is at least 2. -/
def Obligations.FpSpecialOperands : Prop :=
  (∀ x y : F64, Fp.isNaN x = true ∨ Fp.isNaN y = true →
    Fp.isNaN (Fp.fadd x y) = true ∧ Fp.isNaN (Fp.fmul x y) = true) ∧
  (∀ x : F64, Fp.isNaN x = true → Fp.isNaN (Fp.fhalf x) = true) ∧
  Fp.isNaN (Fp.fadd Fp.posInf Fp.negInf) = true ∧ Fp.isNaN (Fp.fadd Fp.negInf Fp.posInf) = true ∧
  (∀ x y : F64, Fp.isInf x = true → Fp.isFinite y = true ∨ y = x →
    Fp.fadd x y = x ∧ Fp.fadd y x = x) ∧
  (∀ x y : F64, Fp.isInf x = true → Fp.isNaN y = false →
    (Fp.isZero y = true → Fp.isNaN (Fp.fmul x y) = true ∧ Fp.isNaN (Fp.fmul y x) = true) ∧
    (Fp.isZero y = false →
      Fp.fmul x y = (if Fp.sign x ^^ Fp.sign y then Fp.negInf else Fp.posInf) ∧
      Fp.fmul y x = (if Fp.sign x ^^ Fp.sign y then Fp.negInf else Fp.posInf))) ∧
  (∀ x : F64, Fp.isInf x = true → Fp.fhalf x = x) ∧
  (∀ x : F64, Fp.isFinite x = true → Fp.sign (Fp.fhalf x) = Fp.sign x ∧
    Fp.isFinite (Fp.fhalf x) = true ∧ IsNearestEven (Fp.fhalf x) (Fp.value x) 2 ∧
    (2 ^ 53 ≤ Fp.mag x → 2 * Fp.value (Fp.fhalf x) = Fp.value x))

/-- R160: every argument the decoder gives `ATANH` is a NaN or lies in [−1, 1], whatever `v` holds. -/
def Obligations.AtanhArgumentStaysInRange : Prop :=
  ∀ (v : Vector (Vector F64 128) 256) (i : Row) (L : List Col),
    (∀ x : F64, inUnitOrNaN (Config.tanh x)) ∧
    inUnitOrNaN (Fp.prodFold L fun b => Config.tanh (Fp.fhalf ((v.get b).get i)))

/-- R161: where `u` is +0.0 off the edges, `MARG`'s sum over all rows and the sum over the column's own
rows are both NaN, or the same value, or both zeros; so they have the same hard decision. -/
def Obligations.DenseAndEdgeSumsAgree : Prop :=
  ∀ (llr : F64) (u : Vector (Vector F64 256) 128) (a : Col),
    (∀ i, hBit i a = false → (u.get i).get a = Fp.posZero) →
    let dense := marginal llr u a
    let edge := Fp.sumFold llr (connsCol a) fun i => (u.get i).get a
    ((Fp.isNaN dense = true ∧ Fp.isNaN edge = true) ∨ dense = edge ∨
      (Fp.isZero dense = true ∧ Fp.isZero edge = true)) ∧
    Fp.hard dense = Fp.hard edge

/-! ### The decoder engine -/

/-- R150: an accepted `DECODE` clears the message, `DONE`, `RESULT` and `t`, moves to `INIT`, and
changes nothing else; while a decode runs it is BUSY; with nonzero operands it is ILLEGAL. -/
def Obligations.DecodeStartsADecode : Prop :=
  (∀ s : State, s.busy = false → exec .decode s = .next { s with
    msg := Vector.replicate 4 0, done := false, result := .none, t := 0, phase := .init }) ∧
  (∀ s : State, s.busy = true → exec .decode s = .next (s.raise .busy)) ∧
  (∀ s t : State, s.busy = false → exec .decode s = .next t → t.irq = false ∧ t.busy = true) ∧
  decodeCommand 0x03000000 = .ok .decode ∧
  (∀ (w : Word) (s : State), opcField w = 0x03 → aField w ≠ 0 ∨ bField w ≠ 0 →
    exec (.regWr 32 0x08 w) s = .next (s.raise .illegal))

/-- R152: `INIT` copies the channel values to the marginals and to `v` on the edges, and sets `u`, and
`v` off the edges, to +0.0. -/
def Obligations.InitCopiesTheChannel : Prop :=
  ∀ s : State, ∃ t, exec .init s = .next t ∧
    t = { s with r := t.r, u := t.u, v := t.v, phase := .conv, draws := s.draws + 1 } ∧
    (∀ a, s.written.get a = true → t.r.get a = s.llr.get a) ∧
    (∀ i a, (t.u.get i).get a = Fp.posZero) ∧
    (∀ i a, hBit i a = true → s.written.get a = true → (t.v.get a).get i = s.llr.get a) ∧
    (∀ i a, hBit i a = false → (t.v.get a).get i = Fp.posZero)

/-- R153: `CONV` ends NOT_DECODED at the cap without a test, ends DECODED with the packed marginals
if they are a codeword, and else goes on to `CNU`. -/
def Obligations.ConvTestsThenDecides : Prop :=
  (∀ s : State, s.t = s.cap.toNat → exec .conv s = .next { s with
    result := .notDecoded, done := true, phase := .idle }) ∧
  (∀ s : State, s.t ≠ s.cap.toNat → isCodeword s.r = true →
    ∃ t, exec .conv s = .next t ∧
      t = { s with msg := t.msg, result := .decoded, done := true, phase := .idle } ∧
      ∀ w, t.msg.get w = msgWord (packMessage 64 s.r) w) ∧
  (∀ s : State, s.t ≠ s.cap.toNat → isCodeword s.r = false → exec .conv s = .next { s with
    phase := .cnu })

/-- R155: `CNU` writes `2·ATANH(Π TANH(v/2))` over the other edges of the row to every edge of `u`,
leaves `u` off the edges, and moves to `VNU`. -/
def Obligations.CnuUpdatesChecks : Prop :=
  ∀ s : State, ∃ t, exec .cnu s = .next t ∧ t = { s with u := t.u, phase := .vnu } ∧
    (∀ i a, hBit i a = true → (t.u.get i).get a =
      Fp.fmul Fp.two (Config.atanh (Fp.prodFold ((connsRow i).filter fun b => b != a)
        fun b => Config.tanh (Fp.fhalf ((s.v.get b).get i))))) ∧
    (∀ i a, hBit i a = false → (t.u.get i).get a = (s.u.get i).get a) ∧
    (∀ i a, hBit i a = true → ((connsRow i).filter fun b => b != a).length = 7)

/-- R156: `VNU` writes the channel value plus the messages of the column's other checks to every edge
of `v`, leaves `v` off the edges, and moves to `MARG`. -/
def Obligations.VnuUpdatesVariables : Prop :=
  ∀ s : State, ∃ t, exec .vnu s = .next t ∧
    t = { s with v := t.v, phase := .marg, draws := s.draws + 1 } ∧
    (∀ i a, hBit i a = true → s.written.get a = true → (t.v.get a).get i =
      Fp.sumFold (s.llr.get a) ((connsCol a).filter fun j => j != i) fun j => (s.u.get j).get a) ∧
    (∀ i a, hBit i a = false → (t.v.get a).get i = (s.v.get a).get i) ∧
    (∀ i a, hBit i a = true →
      ((connsCol a).filter fun j => j != i).length = if a.val < 128 then 4 else 2)

/-- R157: `MARG` writes the channel value plus the messages of all 128 checks to every marginal, counts
the iteration, and moves to `CONV`. -/
def Obligations.MargUpdatesMarginals : Prop :=
  ∀ s : State, ∃ t, exec .marg s = .next t ∧
    t = { s with r := t.r, t := s.t + 1, phase := .conv, draws := s.draws + 1 } ∧
    (∀ a, s.written.get a = true →
      t.r.get a = Fp.sumFold (s.llr.get a) (List.finRange 128) fun i => (s.u.get i).get a)

/-- R158: the phase transitions. Each one listed is taken, and over every step of the machine there is
no other. -/
def Obligations.PhaseTransitions : Prop :=
  (∀ s : State, s.nextIsReset = true → ∃ t, step s = .next t ∧ t.phase = .idle) ∧
  (∀ s : State, s.phase = .idle → s.nextCommand = some 0x03000000 →
    ∃ t, step s = .next t ∧ t.phase = .init) ∧
  (∀ s : State, s.engineMoves = true → ∃ t, step s = .next t ∧
    (s.phase = .init → t.phase = .conv) ∧
    (s.phase = .conv → s.t = s.cap.toNat ∨ isCodeword s.r = true → t.phase = .idle) ∧
    (s.phase = .conv → s.t ≠ s.cap.toNat → isCodeword s.r = false → t.phase = .cnu) ∧
    (s.phase = .cnu → t.phase = .vnu) ∧
    (s.phase = .vnu → t.phase = .marg) ∧
    (s.phase = .marg → t.phase = .conv)) ∧
  (∀ s t : State, step s = .next t → t.phase ≠ s.phase →
    (s.nextIsReset = true ∧ t.phase = .idle) ∨
    (s.phase = .idle ∧ s.nextCommand = some 0x03000000 ∧ t.phase = .init) ∨
    (s.engineMoves = true ∧
      ((s.phase = .init ∧ t.phase = .conv) ∨
       (s.phase = .conv ∧ (s.t = s.cap.toNat ∨ isCodeword s.r = true) ∧ t.phase = .idle) ∨
       (s.phase = .conv ∧ s.t ≠ s.cap.toNat ∧ isCodeword s.r = false ∧ t.phase = .cnu) ∨
       (s.phase = .cnu ∧ t.phase = .vnu) ∨
       (s.phase = .vnu ∧ t.phase = .marg) ∨
       (s.phase = .marg ∧ t.phase = .conv))))

/-- R36 and R236 over every step: `t` is cleared by an accepted `DECODE` or a reset, counts a `MARG`
step, and is otherwise unchanged. -/
def Obligations.IterationIndexWriters : Prop :=
  ∀ s t : State, step s = .next t → t.t ≠ s.t →
    (t.t = 0 ∧ (s.nextIsReset = true ∨ (s.busy = false ∧ s.nextCommand = some 0x03000000))) ∨
    (t.t = s.t + 1 ∧ s.engineMoves = true ∧ s.phase = .marg)

/-- R34: `CAP` = 0 can be set, and with it a decode ends NOT_DECODED in two engine steps, whatever
the channel values. -/
def Obligations.CapZeroFailsUntested : Prop :=
  (∀ s : State, s.busy = false → exec (.regWr 32 0x14 0) s = .next { s with cap := 0 }) ∧
  ∀ s : State, s.phase = .init → s.t = 0 → s.cap = 0 → s.inputs = [] →
    ∃ t, runSteps 2 s = .next t ∧ t.phase = .idle ∧ t.done = true ∧ t.result = .notDecoded ∧
      t.t = 0 ∧ t.msg = s.msg

/-- R164: a decode left alone ends after exactly 2 + 4T engine steps with `ITER_COUNT` = T ≤ `CAP`, so
within 262142 steps. -/
def Obligations.DecodeEndsInBoundedSteps : Prop :=
  ∀ s : State, s.phase = .init → s.t = 0 → s.inputs = [] →
    ∃ T : Nat, T ≤ s.cap.toNat ∧ 2 + 4 * T ≤ 262142 ∧
      (∃ t, runSteps (2 + 4 * T) s = .next t ∧ t.phase = .idle ∧ t.done = true ∧ t.t = T ∧
        (t.result = .decoded ∨ (t.result = .notDecoded ∧ T = s.cap.toNat ∧ t.msg = s.msg))) ∧
      ∀ m, m < 2 + 4 * T → ∃ t, runSteps m s = .next t ∧ t.busy = true

/-- R165, first half: the outcome is a function of the LLR buffer and `CAP` at the moment `DECODE` is
accepted; what `r`, `u` and `v` held before does not matter. -/
def Obligations.OutcomeDependsOnlyOnBufferAndCap : Prop :=
  ∀ s s' : State, s.phase = .init → s'.phase = .init → s.allWritten → s'.allWritten →
    s.llr = s'.llr → s.cap = s'.cap → s.t = s'.t → s.done = s'.done → s.result = s'.result →
    s.msg = s'.msg →
    ∀ n, ∃ t t', runSteps n s.alone = .next t ∧ runSteps n s'.alone = .next t' ∧
      t.phase = t'.phase ∧ t.result = t'.result ∧ t.t = t'.t ∧ t.done = t'.done ∧ t.msg = t'.msg

/-- R233: while a decode runs, no host access changes what the decode rests on or gives out. -/
def Obligations.HostAccessKeepsRunningDecode : Prop :=
  ∀ (s : State) (acc : BusAccess) (rest : List Input), s.Inv → s.busy = true →
    s.inputs = .access acc :: rest →
    ∃ t, step s = .next t ∧ t.inputs = rest ∧ t.decodeView = s.decodeView ∧ t.written = s.written

/-- R165, second half: host accesses made while `BUSY` cannot change the outcome. Any mix of accesses
and engine turns leads to the same `RESULT`, `ITER_COUNT`, `DONE` and `MSG0..3` at the same phase as the
engine turns alone. The last clause, that `r`, `u` and `v` hold the same bit patterns too, is about the
model: it leans on log 8, by which the same operation on the same operands makes the same NaN. -/
def Obligations.HostAccessesCannotChangeOutcome : Prop :=
  ∀ (s : State) (mix : List Input), s.Inv → s.allWritten → Input.reset ∉ mix →
    (∀ m, m ≤ mix.count .engineTurn → ∃ t, runSteps m s.alone = .next t ∧ t.busy = true) →
    ∃ t t', runSteps (mix.length + 1) { s with inputs := mix ++ [.engineTurn] } = .next t ∧
      runSteps (mix.count .engineTurn + 1) s.alone = .next t' ∧
      (t.phase = t'.phase ∧ t.result = t'.result ∧ t.t = t'.t ∧ t.done = t'.done ∧ t.msg = t'.msg) ∧
      t.decodeView = t'.decodeView

/-! ### The machine -/

/-- R42: the state after reset, every value the spec gives. -/
def Obligations.ResetValues : Prop :=
  (∀ a, State.reset.written.get a = false) ∧ State.reset.phase = .idle ∧ State.reset.t = 0 ∧
  statusWord State.reset = 0x00000000 ∧
  State.reset.done = false ∧ State.reset.result = .none ∧ State.reset.chk = false ∧
  State.reset.chkValid = false ∧ State.reset.err = .none ∧
  State.reset.ie = false ∧ State.reset.irq = false ∧ State.reset.cap = 0x0064 ∧
  State.reset.dataLo = 0 ∧ State.reset.dataHi = 0 ∧ (∀ w, State.reset.msg.get w = 0) ∧
  regValue 0x00 State.reset = 0x4C445043 ∧ regValue 0x04 State.reset = 0x00018420

/-- R250, R252: a reset may come before any step, at any phase; it gives every register its reset
value, clears the written marks, and shows no outcome. -/
def Obligations.ResetStepFromAnyState : Prop :=
  ∀ (s : State) (rest : List Input), s.inputs = .reset :: rest →
    ∃ t, step s = .next t ∧ t.inputs = rest ∧
      t.phase = .idle ∧ t.t = 0 ∧ t.done = false ∧ t.result = .none ∧ t.chk = false ∧
      t.chkValid = false ∧ t.err = .none ∧ t.ie = false ∧ t.cap = 100 ∧ t.dataLo = 0 ∧
      t.dataHi = 0 ∧ (∀ w, t.msg.get w = 0) ∧ (∀ a, t.written.get a = false) ∧
      t.irq = false ∧ statusWord t = 0

/-- R20, R151: which step comes next, by the pending inputs; the instruction runs on the state with its
input taken off (log 5). -/
def Obligations.StepRunsTheNextInstruction : Prop :=
  (∀ (s : State) (acc : BusAccess) (rest : List Input) (i : Instr),
    s.inputs = .access acc :: rest → decode (.bus acc) = .ok i →
    step s = exec i { s with inputs := rest, bus := .accepted }) ∧
  (∀ (s : State) (rest : List Input) (i : Instr),
    s.inputs = .engineTurn :: rest → decode (.phase s.phase.code) = .ok i →
    step s = exec i { s with inputs := rest }) ∧
  (∀ (s : State) (i : Instr),
    s.inputs = [] → decode (.phase s.phase.code) = .ok i → step s = exec i s) ∧
  (∀ (s : State) (rest : List Input),
    s.inputs = .engineTurn :: rest → s.phase = .idle → step s = .next { s with inputs := rest }) ∧
  (∀ s : State, s.inputs = [] → s.phase = .idle → step s = .next s)

/-- A word of the opcode table placed by `withFetchWord` is what the very next step runs (log 5). -/
def Obligations.PlacedWordRunsNext : Prop :=
  (∀ (s : State) (w : Nat) (i : Instr), decodeTableWord 32 w = some i →
    step (s.withFetchWord 32 w) = exec i { s with bus := .accepted }) ∧
  (∀ (s : State) (w : Nat) (i : Instr), decodeTableWord 8 w = some i →
    ∃ p : Phase, p.code = BitVec.ofNat 3 w ∧
      step (s.withFetchWord 8 w) = exec i { s with phase := p })

/-- No step of either agent stops the machine: whatever the state, there is a next one (R223 for the
engine, R229 for the host; log 1 and log 6 for the two readings that make it so). -/
def Obligations.EveryStepGoesOn : Prop :=
  ∀ s : State, ∃ t, step s = .next t

/-- R251, R222: the stopping reading faults with "read of an unwritten LLR entry" or "refused bus
access" only, and where it goes on it is the step itself. It faults on every access but a 32-bit one at a
multiple of 4, with its offset. It faults for `INIT`, `VNU`, `MARG` and `CHECK`
on any unwritten entry, for `PACK` on one below 64, for `LLR_RD a` on entry a, as commands written to
`CMD`, and for no other accepted access or phase, nor for a rejected command. -/
def Obligations.StoppingReadingAgreesWithStep : Prop :=
  (∀ s t : State, strictStep s = .next t → step s = .next t) ∧
  (∀ s : State, s.allWritten → (∀ acc rest, s.inputs = .access acc :: rest →
      refusedAt (decodeAccess acc) = none) →
    ∃ t, strictStep s = .next t) ∧
  (∀ (s : State) (r : Refusal), strictStep s ≠ .refused r) ∧
  (∀ (s : State) (rest : List Input) (bits : Nat) (off : BitVec 8) (v : Word),
    bits ≠ 32 ∨ off.toNat % 4 ≠ 0 →
    s.inputs = .access (.read bits off) :: rest ∨ s.inputs = .access (.write bits off v) :: rest →
    strictStep s = .fault (.refusedBusAccess off)) ∧
  (∀ s : State, ¬ s.allWritten →
    strictExec .init s = .fault .unwrittenLlrRead ∧ strictExec .vnu s = .fault .unwrittenLlrRead ∧
    strictExec .marg s = .fault .unwrittenLlrRead ∧
    strictExec (.regWr 32 0x08 0x04000000) s = .fault .unwrittenLlrRead ∧
    (s.engineMoves = true → s.phase = .init ∨ s.phase = .vnu ∨ s.phase = .marg →
      strictStep s = .fault .unwrittenLlrRead)) ∧
  (∀ s : State, s.busy = false →
    ((∃ a : Col, a.val < 64 ∧ s.written.get a = false) →
      strictExec (.regWr 32 0x08 0x05000000) s = .fault .unwrittenLlrRead) ∧
    ((∀ a : Col, a.val < 64 → s.written.get a = true) →
      strictExec (.regWr 32 0x08 0x05000000) s = exec .pack s)) ∧
  (∀ (s : State) (a : BitVec 12) (h : a.toNat < 256),
    strictExec (.regWr 32 0x08 (0x02000000 ||| a.setWidth 32)) s =
      if s.written.get ⟨a.toNat, h⟩ then exec (.llrRd a) s else .fault .unwrittenLlrRead) ∧
  (∀ s : State, strictExec .conv s = exec .conv s ∧ strictExec .cnu s = exec .cnu s) ∧
  (∀ (w : Word) (s : State), opcField w ∉ [0x02, 0x04, 0x05] ∨
      wordIllegal w ∨ wordBusy w s ∨ wordRange w →
    strictExec (.regWr 32 0x08 w) s = exec (.regWr 32 0x08 w) s) ∧
  (∀ (off : BitVec 8) (v : Word) (s : State), off.toNat % 4 = 0 →
    strictExec (.regRd 32 off) s = exec (.regRd 32 off) s ∧
    (off ≠ 0x08 → strictExec (.regWr 32 off v) s = exec (.regWr 32 off v) s))

/-- The invariant holds after reset. -/
def Obligations.InvariantAtReset : Prop := State.reset.Inv

/-- Every step keeps the invariant: the zero invariant (R25), `t ≤ CAP` in a decode (R153), nothing
shown while a decode runs (R262), and the rest of `State.Inv`. -/
def Obligations.EveryStepKeepsInvariant : Prop :=
  ∀ s t : State, s.Inv → step s = .next t → t.Inv
end

