-- ==== Sys2Proof/Laws/Decode.lean ====
section
/-! SUPPORT. The fields of an encoded word, and the shape of decoding. -/

namespace Sys2Proof

theorem enc_toNat (opc : BitVec 8) (a b : BitVec 12) :
    (enc opc a b).toNat = opc.toNat * 2 ^ 24 + a.toNat * 2 ^ 12 + b.toNat := by
  have ha := a.isLt
  have hb := b.isLt
  unfold enc
  rw [BitVec.toNat_append, BitVec.toNat_append, ← Nat.shiftLeft_add_eq_or_of_lt hb,
    ← Nat.shiftLeft_add_eq_or_of_lt ha, Nat.shiftLeft_eq, Nat.shiftLeft_eq]
  ring

@[simp] theorem opcField_enc (opc : BitVec 8) (a b : BitVec 12) : opcField (enc opc a b) = opc := by
  apply BitVec.eq_of_toNat_eq
  have := opc.isLt
  have := a.isLt
  have := b.isLt
  simp only [opcField, BitVec.extractLsb'_toNat, enc_toNat, Nat.shiftRight_eq_div_pow]
  omega

@[simp] theorem aField_enc (opc : BitVec 8) (a b : BitVec 12) : aField (enc opc a b) = a := by
  apply BitVec.eq_of_toNat_eq
  have := opc.isLt
  have := a.isLt
  have := b.isLt
  simp only [aField, BitVec.extractLsb'_toNat, enc_toNat, Nat.shiftRight_eq_div_pow]
  omega

@[simp] theorem bField_enc (opc : BitVec 8) (a b : BitVec 12) : bField (enc opc a b) = b := by
  apply BitVec.eq_of_toNat_eq
  have := opc.isLt
  have := a.isLt
  have := b.isLt
  simp only [bField, BitVec.extractLsb'_toNat, enc_toNat, Nat.shiftRight_eq_div_pow]
  omega

/-- A word is its three fields. -/
theorem enc_fields (w : Word) : enc (opcField w) (aField w) (bField w) = w := by
  apply BitVec.eq_of_toNat_eq
  have := w.isLt
  simp only [enc_toNat, opcField, aField, bField, BitVec.extractLsb'_toNat,
    Nat.shiftRight_eq_div_pow]
  omega

theorem ifZero_ok {x : BitVec 12} {d : Except Reject Instr} {i : Instr}
    (h : ifZero x d = .ok i) : x = 0 ∧ d = .ok i := by
  unfold ifZero at h
  split at h
  · exact ⟨‹_›, h⟩
  · cases h

end Sys2Proof
end

