-- ==== Sys2Proof/Laws/State.lean ====
section
/-! SUPPORT. Each field after each named update of the state. -/

namespace Sys2Proof.Machine

/-! `State.raise` -/

@[simp] theorem State.raise_llr (e : ErrCode) (s : State) : (s.raise e).llr = s.llr := rfl
@[simp] theorem State.raise_written (e : ErrCode) (s : State) : (s.raise e).written = s.written := rfl
@[simp] theorem State.raise_r (e : ErrCode) (s : State) : (s.raise e).r = s.r := rfl
@[simp] theorem State.raise_u (e : ErrCode) (s : State) : (s.raise e).u = s.u := rfl
@[simp] theorem State.raise_v (e : ErrCode) (s : State) : (s.raise e).v = s.v := rfl
@[simp] theorem State.raise_phase (e : ErrCode) (s : State) : (s.raise e).phase = s.phase := rfl
@[simp] theorem State.raise_t (e : ErrCode) (s : State) : (s.raise e).t = s.t := rfl
@[simp] theorem State.raise_done (e : ErrCode) (s : State) : (s.raise e).done = s.done := rfl
@[simp] theorem State.raise_result (e : ErrCode) (s : State) : (s.raise e).result = s.result := rfl
@[simp] theorem State.raise_chk (e : ErrCode) (s : State) : (s.raise e).chk = s.chk := rfl
@[simp] theorem State.raise_chkValid (e : ErrCode) (s : State) : (s.raise e).chkValid = s.chkValid := rfl
@[simp] theorem State.raise_err (e : ErrCode) (s : State) : (s.raise e).err = if s.err = .none then e else s.err := rfl
@[simp] theorem State.raise_ie (e : ErrCode) (s : State) : (s.raise e).ie = s.ie := rfl
@[simp] theorem State.raise_cap (e : ErrCode) (s : State) : (s.raise e).cap = s.cap := rfl
@[simp] theorem State.raise_dataLo (e : ErrCode) (s : State) : (s.raise e).dataLo = s.dataLo := rfl
@[simp] theorem State.raise_dataHi (e : ErrCode) (s : State) : (s.raise e).dataHi = s.dataHi := rfl
@[simp] theorem State.raise_msg (e : ErrCode) (s : State) : (s.raise e).msg = s.msg := rfl
@[simp] theorem State.raise_inputs (e : ErrCode) (s : State) : (s.raise e).inputs = s.inputs := rfl
@[simp] theorem State.raise_bus (e : ErrCode) (s : State) : (s.raise e).bus = s.bus := rfl
@[simp] theorem State.raise_draws (e : ErrCode) (s : State) : (s.raise e).draws = s.draws := rfl

/-! `State.refuseAccess` -/

@[simp] theorem State.refuseAccess_llr (off : BitVec 8) (s : State) : (s.refuseAccess off).llr = s.llr := rfl
@[simp] theorem State.refuseAccess_written (off : BitVec 8) (s : State) : (s.refuseAccess off).written = s.written := rfl
@[simp] theorem State.refuseAccess_r (off : BitVec 8) (s : State) : (s.refuseAccess off).r = s.r := rfl
@[simp] theorem State.refuseAccess_u (off : BitVec 8) (s : State) : (s.refuseAccess off).u = s.u := rfl
@[simp] theorem State.refuseAccess_v (off : BitVec 8) (s : State) : (s.refuseAccess off).v = s.v := rfl
@[simp] theorem State.refuseAccess_phase (off : BitVec 8) (s : State) : (s.refuseAccess off).phase = s.phase := rfl
@[simp] theorem State.refuseAccess_t (off : BitVec 8) (s : State) : (s.refuseAccess off).t = s.t := rfl
@[simp] theorem State.refuseAccess_done (off : BitVec 8) (s : State) : (s.refuseAccess off).done = s.done := rfl
@[simp] theorem State.refuseAccess_result (off : BitVec 8) (s : State) : (s.refuseAccess off).result = s.result := rfl
@[simp] theorem State.refuseAccess_chk (off : BitVec 8) (s : State) : (s.refuseAccess off).chk = s.chk := rfl
@[simp] theorem State.refuseAccess_chkValid (off : BitVec 8) (s : State) : (s.refuseAccess off).chkValid = s.chkValid := rfl
@[simp] theorem State.refuseAccess_err (off : BitVec 8) (s : State) : (s.refuseAccess off).err = s.err := rfl
@[simp] theorem State.refuseAccess_ie (off : BitVec 8) (s : State) : (s.refuseAccess off).ie = s.ie := rfl
@[simp] theorem State.refuseAccess_cap (off : BitVec 8) (s : State) : (s.refuseAccess off).cap = s.cap := rfl
@[simp] theorem State.refuseAccess_dataLo (off : BitVec 8) (s : State) : (s.refuseAccess off).dataLo = s.dataLo := rfl
@[simp] theorem State.refuseAccess_dataHi (off : BitVec 8) (s : State) : (s.refuseAccess off).dataHi = s.dataHi := rfl
@[simp] theorem State.refuseAccess_msg (off : BitVec 8) (s : State) : (s.refuseAccess off).msg = s.msg := rfl
@[simp] theorem State.refuseAccess_inputs (off : BitVec 8) (s : State) : (s.refuseAccess off).inputs = s.inputs := rfl
@[simp] theorem State.refuseAccess_bus (off : BitVec 8) (s : State) : (s.refuseAccess off).bus = .refused off := rfl
@[simp] theorem State.refuseAccess_draws (off : BitVec 8) (s : State) : (s.refuseAccess off).draws = s.draws := rfl

/-! `State.setData` -/

@[simp] theorem State.setData_llr (hi lo : Word) (s : State) : (s.setData hi lo).llr = s.llr := rfl
@[simp] theorem State.setData_written (hi lo : Word) (s : State) : (s.setData hi lo).written = s.written := rfl
@[simp] theorem State.setData_r (hi lo : Word) (s : State) : (s.setData hi lo).r = s.r := rfl
@[simp] theorem State.setData_u (hi lo : Word) (s : State) : (s.setData hi lo).u = s.u := rfl
@[simp] theorem State.setData_v (hi lo : Word) (s : State) : (s.setData hi lo).v = s.v := rfl
@[simp] theorem State.setData_phase (hi lo : Word) (s : State) : (s.setData hi lo).phase = s.phase := rfl
@[simp] theorem State.setData_t (hi lo : Word) (s : State) : (s.setData hi lo).t = s.t := rfl
@[simp] theorem State.setData_done (hi lo : Word) (s : State) : (s.setData hi lo).done = s.done := rfl
@[simp] theorem State.setData_result (hi lo : Word) (s : State) : (s.setData hi lo).result = s.result := rfl
@[simp] theorem State.setData_chk (hi lo : Word) (s : State) : (s.setData hi lo).chk = s.chk := rfl
@[simp] theorem State.setData_chkValid (hi lo : Word) (s : State) : (s.setData hi lo).chkValid = s.chkValid := rfl
@[simp] theorem State.setData_err (hi lo : Word) (s : State) : (s.setData hi lo).err = s.err := rfl
@[simp] theorem State.setData_ie (hi lo : Word) (s : State) : (s.setData hi lo).ie = s.ie := rfl
@[simp] theorem State.setData_cap (hi lo : Word) (s : State) : (s.setData hi lo).cap = s.cap := rfl
@[simp] theorem State.setData_dataLo (hi lo : Word) (s : State) : (s.setData hi lo).dataLo = lo := rfl
@[simp] theorem State.setData_dataHi (hi lo : Word) (s : State) : (s.setData hi lo).dataHi = hi := rfl
@[simp] theorem State.setData_msg (hi lo : Word) (s : State) : (s.setData hi lo).msg = s.msg := rfl
@[simp] theorem State.setData_inputs (hi lo : Word) (s : State) : (s.setData hi lo).inputs = s.inputs := rfl
@[simp] theorem State.setData_bus (hi lo : Word) (s : State) : (s.setData hi lo).bus = s.bus := rfl
@[simp] theorem State.setData_draws (hi lo : Word) (s : State) : (s.setData hi lo).draws = s.draws := rfl

/-! `State.setLlr` -/

@[simp] theorem State.setLlr_llr (a : Col) (x : F64) (s : State) : (s.setLlr a x).llr = s.llr.set a.val x := rfl
@[simp] theorem State.setLlr_written (a : Col) (x : F64) (s : State) : (s.setLlr a x).written = s.written.set a.val true := rfl
@[simp] theorem State.setLlr_r (a : Col) (x : F64) (s : State) : (s.setLlr a x).r = s.r := rfl
@[simp] theorem State.setLlr_u (a : Col) (x : F64) (s : State) : (s.setLlr a x).u = s.u := rfl
@[simp] theorem State.setLlr_v (a : Col) (x : F64) (s : State) : (s.setLlr a x).v = s.v := rfl
@[simp] theorem State.setLlr_phase (a : Col) (x : F64) (s : State) : (s.setLlr a x).phase = s.phase := rfl
@[simp] theorem State.setLlr_t (a : Col) (x : F64) (s : State) : (s.setLlr a x).t = s.t := rfl
@[simp] theorem State.setLlr_done (a : Col) (x : F64) (s : State) : (s.setLlr a x).done = s.done := rfl
@[simp] theorem State.setLlr_result (a : Col) (x : F64) (s : State) : (s.setLlr a x).result = s.result := rfl
@[simp] theorem State.setLlr_chk (a : Col) (x : F64) (s : State) : (s.setLlr a x).chk = s.chk := rfl
@[simp] theorem State.setLlr_chkValid (a : Col) (x : F64) (s : State) : (s.setLlr a x).chkValid = s.chkValid := rfl
@[simp] theorem State.setLlr_err (a : Col) (x : F64) (s : State) : (s.setLlr a x).err = s.err := rfl
@[simp] theorem State.setLlr_ie (a : Col) (x : F64) (s : State) : (s.setLlr a x).ie = s.ie := rfl
@[simp] theorem State.setLlr_cap (a : Col) (x : F64) (s : State) : (s.setLlr a x).cap = s.cap := rfl
@[simp] theorem State.setLlr_dataLo (a : Col) (x : F64) (s : State) : (s.setLlr a x).dataLo = s.dataLo := rfl
@[simp] theorem State.setLlr_dataHi (a : Col) (x : F64) (s : State) : (s.setLlr a x).dataHi = s.dataHi := rfl
@[simp] theorem State.setLlr_msg (a : Col) (x : F64) (s : State) : (s.setLlr a x).msg = s.msg := rfl
@[simp] theorem State.setLlr_inputs (a : Col) (x : F64) (s : State) : (s.setLlr a x).inputs = s.inputs := rfl
@[simp] theorem State.setLlr_bus (a : Col) (x : F64) (s : State) : (s.setLlr a x).bus = s.bus := rfl
@[simp] theorem State.setLlr_draws (a : Col) (x : F64) (s : State) : (s.setLlr a x).draws = s.draws := rfl

/-! `State.drawn` -/

@[simp] theorem State.drawn_llr (s : State) : (s.drawn).llr = s.llr := rfl
@[simp] theorem State.drawn_written (s : State) : (s.drawn).written = s.written := rfl
@[simp] theorem State.drawn_r (s : State) : (s.drawn).r = s.r := rfl
@[simp] theorem State.drawn_u (s : State) : (s.drawn).u = s.u := rfl
@[simp] theorem State.drawn_v (s : State) : (s.drawn).v = s.v := rfl
@[simp] theorem State.drawn_phase (s : State) : (s.drawn).phase = s.phase := rfl
@[simp] theorem State.drawn_t (s : State) : (s.drawn).t = s.t := rfl
@[simp] theorem State.drawn_done (s : State) : (s.drawn).done = s.done := rfl
@[simp] theorem State.drawn_result (s : State) : (s.drawn).result = s.result := rfl
@[simp] theorem State.drawn_chk (s : State) : (s.drawn).chk = s.chk := rfl
@[simp] theorem State.drawn_chkValid (s : State) : (s.drawn).chkValid = s.chkValid := rfl
@[simp] theorem State.drawn_err (s : State) : (s.drawn).err = s.err := rfl
@[simp] theorem State.drawn_ie (s : State) : (s.drawn).ie = s.ie := rfl
@[simp] theorem State.drawn_cap (s : State) : (s.drawn).cap = s.cap := rfl
@[simp] theorem State.drawn_dataLo (s : State) : (s.drawn).dataLo = s.dataLo := rfl
@[simp] theorem State.drawn_dataHi (s : State) : (s.drawn).dataHi = s.dataHi := rfl
@[simp] theorem State.drawn_msg (s : State) : (s.drawn).msg = s.msg := rfl
@[simp] theorem State.drawn_inputs (s : State) : (s.drawn).inputs = s.inputs := rfl
@[simp] theorem State.drawn_bus (s : State) : (s.drawn).bus = s.bus := rfl
@[simp] theorem State.drawn_draws (s : State) : (s.drawn).draws = s.draws + 1 := rfl

/-! `State.setMsg` -/

@[simp] theorem State.setMsg_llr (out : Vector Byte 16) (s : State) : (s.setMsg out).llr = s.llr := rfl
@[simp] theorem State.setMsg_written (out : Vector Byte 16) (s : State) : (s.setMsg out).written = s.written := rfl
@[simp] theorem State.setMsg_r (out : Vector Byte 16) (s : State) : (s.setMsg out).r = s.r := rfl
@[simp] theorem State.setMsg_u (out : Vector Byte 16) (s : State) : (s.setMsg out).u = s.u := rfl
@[simp] theorem State.setMsg_v (out : Vector Byte 16) (s : State) : (s.setMsg out).v = s.v := rfl
@[simp] theorem State.setMsg_phase (out : Vector Byte 16) (s : State) : (s.setMsg out).phase = s.phase := rfl
@[simp] theorem State.setMsg_t (out : Vector Byte 16) (s : State) : (s.setMsg out).t = s.t := rfl
@[simp] theorem State.setMsg_done (out : Vector Byte 16) (s : State) : (s.setMsg out).done = s.done := rfl
@[simp] theorem State.setMsg_result (out : Vector Byte 16) (s : State) : (s.setMsg out).result = s.result := rfl
@[simp] theorem State.setMsg_chk (out : Vector Byte 16) (s : State) : (s.setMsg out).chk = s.chk := rfl
@[simp] theorem State.setMsg_chkValid (out : Vector Byte 16) (s : State) : (s.setMsg out).chkValid = s.chkValid := rfl
@[simp] theorem State.setMsg_err (out : Vector Byte 16) (s : State) : (s.setMsg out).err = s.err := rfl
@[simp] theorem State.setMsg_ie (out : Vector Byte 16) (s : State) : (s.setMsg out).ie = s.ie := rfl
@[simp] theorem State.setMsg_cap (out : Vector Byte 16) (s : State) : (s.setMsg out).cap = s.cap := rfl
@[simp] theorem State.setMsg_dataLo (out : Vector Byte 16) (s : State) : (s.setMsg out).dataLo = s.dataLo := rfl
@[simp] theorem State.setMsg_dataHi (out : Vector Byte 16) (s : State) : (s.setMsg out).dataHi = s.dataHi := rfl
@[simp] theorem State.setMsg_msg (out : Vector Byte 16) (s : State) : (s.setMsg out).msg = tabulate (msgWord out) := rfl
@[simp] theorem State.setMsg_inputs (out : Vector Byte 16) (s : State) : (s.setMsg out).inputs = s.inputs := rfl
@[simp] theorem State.setMsg_bus (out : Vector Byte 16) (s : State) : (s.setMsg out).bus = s.bus := rfl
@[simp] theorem State.setMsg_draws (out : Vector Byte 16) (s : State) : (s.setMsg out).draws = s.draws := rfl

/-! `State.finish` -/

@[simp] theorem State.finish_llr (res : Result) (s : State) : (s.finish res).llr = s.llr := rfl
@[simp] theorem State.finish_written (res : Result) (s : State) : (s.finish res).written = s.written := rfl
@[simp] theorem State.finish_r (res : Result) (s : State) : (s.finish res).r = s.r := rfl
@[simp] theorem State.finish_u (res : Result) (s : State) : (s.finish res).u = s.u := rfl
@[simp] theorem State.finish_v (res : Result) (s : State) : (s.finish res).v = s.v := rfl
@[simp] theorem State.finish_phase (res : Result) (s : State) : (s.finish res).phase = .idle := rfl
@[simp] theorem State.finish_t (res : Result) (s : State) : (s.finish res).t = s.t := rfl
@[simp] theorem State.finish_done (res : Result) (s : State) : (s.finish res).done = true := rfl
@[simp] theorem State.finish_result (res : Result) (s : State) : (s.finish res).result = res := rfl
@[simp] theorem State.finish_chk (res : Result) (s : State) : (s.finish res).chk = s.chk := rfl
@[simp] theorem State.finish_chkValid (res : Result) (s : State) : (s.finish res).chkValid = s.chkValid := rfl
@[simp] theorem State.finish_err (res : Result) (s : State) : (s.finish res).err = s.err := rfl
@[simp] theorem State.finish_ie (res : Result) (s : State) : (s.finish res).ie = s.ie := rfl
@[simp] theorem State.finish_cap (res : Result) (s : State) : (s.finish res).cap = s.cap := rfl
@[simp] theorem State.finish_dataLo (res : Result) (s : State) : (s.finish res).dataLo = s.dataLo := rfl
@[simp] theorem State.finish_dataHi (res : Result) (s : State) : (s.finish res).dataHi = s.dataHi := rfl
@[simp] theorem State.finish_msg (res : Result) (s : State) : (s.finish res).msg = s.msg := rfl
@[simp] theorem State.finish_inputs (res : Result) (s : State) : (s.finish res).inputs = s.inputs := rfl
@[simp] theorem State.finish_bus (res : Result) (s : State) : (s.finish res).bus = s.bus := rfl
@[simp] theorem State.finish_draws (res : Result) (s : State) : (s.finish res).draws = s.draws := rfl

/-! `State.resetStep` -/

@[simp] theorem State.resetStep_llr (s : State) : (s.resetStep).llr = s.llr := by simp only [State.resetStep]
@[simp] theorem State.resetStep_written (s : State) : (s.resetStep).written = tabulate fun _ => false := rfl
@[simp] theorem State.resetStep_r (s : State) : (s.resetStep).r = s.r := by simp only [State.resetStep]
@[simp] theorem State.resetStep_u (s : State) : (s.resetStep).u = s.u := by simp only [State.resetStep]
@[simp] theorem State.resetStep_v (s : State) : (s.resetStep).v = s.v := by simp only [State.resetStep]
@[simp] theorem State.resetStep_phase (s : State) : (s.resetStep).phase = .idle := rfl
@[simp] theorem State.resetStep_t (s : State) : (s.resetStep).t = 0 := rfl
@[simp] theorem State.resetStep_done (s : State) : (s.resetStep).done = false := rfl
@[simp] theorem State.resetStep_result (s : State) : (s.resetStep).result = .none := rfl
@[simp] theorem State.resetStep_chk (s : State) : (s.resetStep).chk = false := rfl
@[simp] theorem State.resetStep_chkValid (s : State) : (s.resetStep).chkValid = false := rfl
@[simp] theorem State.resetStep_err (s : State) : (s.resetStep).err = .none := rfl
@[simp] theorem State.resetStep_ie (s : State) : (s.resetStep).ie = false := rfl
@[simp] theorem State.resetStep_cap (s : State) : (s.resetStep).cap = 100 := rfl
@[simp] theorem State.resetStep_dataLo (s : State) : (s.resetStep).dataLo = 0 := rfl
@[simp] theorem State.resetStep_dataHi (s : State) : (s.resetStep).dataHi = 0 := rfl
@[simp] theorem State.resetStep_msg (s : State) : (s.resetStep).msg = tabulate fun _ => 0 := rfl
@[simp] theorem State.resetStep_inputs (s : State) : (s.resetStep).inputs = s.inputs := by simp only [State.resetStep]
@[simp] theorem State.resetStep_bus (s : State) : (s.resetStep).bus = .none := rfl
@[simp] theorem State.resetStep_draws (s : State) : (s.resetStep).draws = s.draws := by simp only [State.resetStep]

end Sys2Proof.Machine
end

