-- ==== Sys2Proof/Laws/Tabulate.lean ====
section
/-! SUPPORT. Reading tabulated and updated vectors. -/

namespace Sys2Proof.Machine

@[simp] theorem get_tabulate {α : Type} {n : Nat} (f : Fin n → α) (k : Fin n) :
    (tabulate f).get k = f k := by
  simp [tabulate, Vector.get]
  rfl

theorem get_eq_getElem {α : Type} {n : Nat} (x : Vector α n) (k : Fin n) : x.get k = x[k.val] := rfl

/-- Two vectors with the same entries are the same data. -/
theorem vector_ext_get {α : Type} {n : Nat} {x y : Vector α n} (h : ∀ k, x.get k = y.get k) :
    x = y := by
  apply Vector.ext
  intro k hk
  exact h ⟨k, hk⟩

@[simp] theorem tabulate_get {α : Type} {n : Nat} (x : Vector α n) : tabulate x.get = x :=
  vector_ext_get fun k => get_tabulate _ k

theorem tabulate_congr {α : Type} {n : Nat} {f g : Fin n → α} (h : ∀ k, f k = g k) :
    tabulate f = tabulate g := by rw [funext h]

/-- Read after write, same entry. -/
theorem get_set_self {α : Type} {n : Nat} (x : Vector α n) (k : Fin n) (a : α) :
    (x.set k.val a).get k = a := by simp [get_eq_getElem]

/-- Read after write, another entry. -/
theorem get_set_other {α : Type} {n : Nat} (x : Vector α n) {j k : Fin n} (a : α) (h : j ≠ k) :
    (x.set j.val a).get k = x.get k := by
  have : j.val ≠ k.val := fun e => h (Fin.ext e)
  simp [get_eq_getElem, this]

@[simp] theorem get_replicate {α : Type} {n : Nat} (a : α) (k : Fin n) :
    (Vector.replicate n a).get k = a := by simp [get_eq_getElem]

end Sys2Proof.Machine
end

