-- ==== Sys2Proof/Laws/Ops.lean ====
section
/-! SUPPORT. What the shared operations do. -/

namespace Sys2Proof.Machine

/-- A read of a written entry gives the stored value. -/
theorem readLlr_written {s : State} {a : Col} (h : s.written.get a = true) (k : Nat) :
    s.readLlr k a = s.llr.get a := by simp [State.readLlr, h]

/-- A read of an unwritten entry gives the free value of that read. -/
theorem readLlr_unwritten {s : State} {a : Col} (h : s.written.get a = false) (k : Nat) :
    s.readLlr k a = Config.freeLlr s.draws a.val k := by simp [State.readLlr, h]

/-- Read after write: the written entry. -/
theorem readLlr_setLlr_self (s : State) (a : Col) (x : F64) (k : Nat) :
    (s.setLlr a x).readLlr k a = x := by simp [State.readLlr, get_set_self]

/-- Read after write: any other entry. -/
theorem readLlr_setLlr_other (s : State) {a b : Col} (x : F64) (k : Nat) (h : a ≠ b) :
    (s.setLlr a x).readLlr k b = s.readLlr k b := by simp [State.readLlr, get_set_other _ _ h]

@[simp] theorem llrVector_get (s : State) (a : Col) : s.llrVector.get a = s.readLlr 0 a :=
  get_tabulate _ a

/-- With every entry written, the vector read is the buffer. -/
theorem llrVector_written {s : State} (h : ∀ a, s.written.get a = true) : s.llrVector = s.llr :=
  vector_ext_get fun a => by rw [llrVector_get, readLlr_written (h a)]

theorem busy_iff (s : State) : s.busy = true ↔ s.phase ≠ .idle := by simp [State.busy]

theorem not_busy_iff (s : State) : s.busy = false ↔ s.phase = .idle := by simp [State.busy]

/-- A first error is recorded. -/
theorem raise_first {s : State} (h : s.err = .none) (e : ErrCode) :
    s.raise e = { s with err := e } := by simp [State.raise, h]

/-- A later error is not, and the state is unchanged (spec/60_exceptions.md R224, R226). -/
theorem raise_later {s : State} (h : s.err ≠ .none) (e : ErrCode) : s.raise e = s := by
  simp [State.raise, h]

/-- The state after reset is a state a reset step leaves unchanged. -/
theorem reset_resetStep : State.reset.resetStep = State.reset := by
  simp only [State.resetStep, State.reset, State.mk.injEq, true_and, and_true]
  exact ⟨vector_ext_get fun _ => by simp, vector_ext_get fun _ => by simp⟩

theorem colOperand_some {x : BitVec 12} (h : x.toNat < 256) : colOperand x = some ⟨x.toNat, h⟩ := by
  simp [colOperand, h]

theorem colOperand_none {x : BitVec 12} (h : 256 ≤ x.toNat) : colOperand x = none := by
  simp [colOperand, h]

theorem rowOperand_some {x : BitVec 12} (h : x.toNat < 128) : rowOperand x = some ⟨x.toNat, h⟩ := by
  simp [rowOperand, h]

theorem rowOperand_none {x : BitVec 12} (h : 128 ≤ x.toNat) : rowOperand x = none := by
  simp [rowOperand, h]

end Sys2Proof.Machine
end

