-- ==== Sys2Proof/Laws/Exec.lean ====
section
/-! SUPPORT. What the shared operations behind the meanings can answer. -/

namespace Sys2Proof.Machine

/-- A connectivity read either returns the entry and the length, or raises RANGE. -/
theorem readConns_cases {n : Nat} (conns : List (Fin n)) (k : BitVec 12) (s : State) :
    (∃ x, conns[k.toNat]? = some x ∧ readConns conns k s =
      .next (s.setData (BitVec.ofNat 32 conns.length) (BitVec.ofNat 32 x.val))) ∨
    (conns[k.toNat]? = none ∧ readConns conns k s = .next (s.raise .range)) := by
  unfold readConns entryOperand
  cases h : conns[k.toNat]? with
  | some x => exact .inl ⟨x, rfl, rfl⟩
  | none => exact .inr ⟨rfl, rfl⟩

/-- The ten commands a word can decode to, with what the word must be. -/
theorem decodeCommand_cases {w : Word} {i : Instr} (h : decodeCommand w = .ok i) :
    (i = .nop ∧ (opcField w).toNat = 0x00 ∧ aField w = 0 ∧ bField w = 0) ∨
    (i = .llrWr (bField w) ∧ (opcField w).toNat = 0x01 ∧ aField w = 0) ∨
    (i = .llrRd (bField w) ∧ (opcField w).toNat = 0x02 ∧ aField w = 0) ∨
    (i = .decode ∧ (opcField w).toNat = 0x03 ∧ aField w = 0 ∧ bField w = 0) ∨
    (i = .check ∧ (opcField w).toNat = 0x04 ∧ aField w = 0 ∧ bField w = 0) ∨
    (i = .pack ∧ (opcField w).toNat = 0x05 ∧ aField w = 0 ∧ bField w = 0) ∨
    (i = .hRd (aField w) (bField w) ∧ (opcField w).toNat = 0x06) ∨
    (i = .rowRd (aField w) (bField w) ∧ (opcField w).toNat = 0x07) ∨
    (i = .colRd (aField w) (bField w) ∧ (opcField w).toNat = 0x08) ∨
    (i = .clear ∧ (opcField w).toNat = 0x09 ∧ aField w = 0 ∧ bField w = 0) := by
  unfold decodeCommand at h
  split at h
  case h_1 e =>
    obtain ⟨ha, h⟩ := ifZero_ok h
    obtain ⟨hb, h⟩ := ifZero_ok h
    cases h; simp_all
  case h_2 e => obtain ⟨ha, h⟩ := ifZero_ok h; cases h; simp_all
  case h_3 e => obtain ⟨ha, h⟩ := ifZero_ok h; cases h; simp_all
  case h_4 e =>
    obtain ⟨ha, h⟩ := ifZero_ok h
    obtain ⟨hb, h⟩ := ifZero_ok h
    cases h; simp_all
  case h_5 e =>
    obtain ⟨ha, h⟩ := ifZero_ok h
    obtain ⟨hb, h⟩ := ifZero_ok h
    cases h; simp_all
  case h_6 e =>
    obtain ⟨ha, h⟩ := ifZero_ok h
    obtain ⟨hb, h⟩ := ifZero_ok h
    cases h; simp_all
  case h_7 e => cases h; simp_all
  case h_8 e => cases h; simp_all
  case h_9 e => cases h; simp_all
  case h_10 e =>
    obtain ⟨ha, h⟩ := ifZero_ok h
    obtain ⟨hb, h⟩ := ifZero_ok h
    cases h; simp_all
  case h_11 => cases h

/-- A word that decodes runs the decoded instruction's own meaning. -/
theorem runCommand_ok {w : Word} {i : Instr} (h : decodeCommand w = .ok i) (s : State) :
    runCommand w s = exec i s := by
  unfold runCommand
  rw [h]
  rcases decodeCommand_cases h with
    ⟨rfl, _⟩ | ⟨rfl, _⟩ | ⟨rfl, _⟩ | ⟨rfl, _⟩ | ⟨rfl, _⟩ | ⟨rfl, _⟩ | ⟨rfl, _⟩ | ⟨rfl, _⟩ | ⟨rfl, _⟩ | ⟨rfl, _⟩ <;>
    rfl

/-- A word that does not is ILLEGAL. -/
theorem runCommand_error {w : Word} {e : Reject} (h : decodeCommand w = .error e) (s : State) :
    runCommand w s = .next (s.raise .illegal) := by
  unfold runCommand
  rw [h]

/-- The accepted accesses. -/
theorem accepts_iff (bits : Nat) (off : BitVec 8) :
    accepts bits off = true ↔ bits = 32 ∧ off.toNat % 4 = 0 := by simp [accepts]

/-- A write to `CMD` is its command. -/
theorem exec_regWr_cmd (w : Word) (s : State) : exec (.regWr 32 0x08 w) s = runCommand w s := rfl

/-- A word with no operands is its opcode. -/
theorem word_of_fields {w : Word} {o : BitVec 8} (ho : (opcField w).toNat = o.toNat)
    (ha : aField w = 0) (hb : bField w = 0) : w = enc o 0 0 := by
  rw [← enc_fields w, ha, hb, BitVec.eq_of_toNat_eq ho]

/-- Everything an accepted write to `CMD` can do. -/
theorem runCommand_cases {w : Word} {s t : State} (h : runCommand w s = .next t) :
    t = s ∨ (∃ e, t = s.raise e) ∨
    (∃ hi lo d, t = { s with dataHi := hi, dataLo := lo, draws := d }) ∨
    ((opcField w).toNat = 0x01 ∧ s.busy = false ∧ ∃ a x, t = s.setLlr a x) ∨
    (w = 0x03000000 ∧ s.busy = false ∧ t = { s with
      msg := tabulate fun _ => 0, done := false, result := .none, t := 0, phase := .init }) ∨
    (w = 0x04000000 ∧ ∃ c, t = { s with chk := c, chkValid := true, draws := s.draws + 1 }) ∨
    (w = 0x05000000 ∧ s.busy = false ∧ ∃ out, t = s.drawn.setMsg out) ∨
    (w = 0x09000000 ∧ t = { s with err := .none, done := false, chk := false, chkValid := false }) := by
  unfold runCommand at h
  split at h
  case h_2 => cases h; exact .inr (.inl ⟨_, rfl⟩)
  case h_1 i hd =>
  rcases decodeCommand_cases hd with
    ⟨rfl, ho, ha, hb⟩ | ⟨rfl, ho, _⟩ | ⟨rfl, _⟩ | ⟨rfl, ho, ha, hb⟩ | ⟨rfl, ho, ha, hb⟩ |
    ⟨rfl, ho, ha, hb⟩ | ⟨rfl, _⟩ | ⟨rfl, _⟩ | ⟨rfl, _⟩ | ⟨rfl, ho, ha, hb⟩
  · cases h; exact .inl rfl
  · simp only [runCommandInstr, execLlrWr] at h
    split at h
    · cases h; exact .inr (.inl ⟨_, rfl⟩)
    · split at h <;> cases h
      · exact .inr (.inr (.inr (.inl ⟨ho, by simpa using ‹¬ s.busy = true›, _, _, rfl⟩)))
      · exact .inr (.inl ⟨_, rfl⟩)
  · simp only [runCommandInstr, execLlrRd] at h
    split at h <;> cases h
    · exact .inr (.inr (.inl ⟨_, _, _, rfl⟩))
    · exact .inr (.inl ⟨_, rfl⟩)
  · simp only [runCommandInstr, execDecode] at h
    split at h <;> cases h
    · exact .inr (.inl ⟨_, rfl⟩)
    · exact .inr (.inr (.inr (.inr (.inl ⟨word_of_fields (o := 3) ho ha hb,
        by simpa using ‹¬ s.busy = true›, rfl⟩))))
  · cases h
    exact .inr (.inr (.inr (.inr (.inr (.inl ⟨word_of_fields (o := 4) ho ha hb, _, rfl⟩)))))
  · simp only [runCommandInstr, execPack] at h
    split at h <;> cases h
    · exact .inr (.inl ⟨_, rfl⟩)
    · exact .inr (.inr (.inr (.inr (.inr (.inr (.inl ⟨word_of_fields (o := 5) ho ha hb,
        by simpa using ‹¬ s.busy = true›, _, rfl⟩))))))
  · simp only [runCommandInstr, execHRd] at h
    split at h <;> cases h
    · exact .inr (.inr (.inl ⟨_, _, _, rfl⟩))
    · exact .inr (.inl ⟨_, rfl⟩)
  · simp only [runCommandInstr, execRowRd] at h
    split at h
    · rcases readConns_cases (connsRow ‹_›) (bField w) s with ⟨x, _, e⟩ | ⟨_, e⟩ <;>
        rw [e] at h <;> cases h
      · exact .inr (.inr (.inl ⟨_, _, _, rfl⟩))
      · exact .inr (.inl ⟨_, rfl⟩)
    · cases h; exact .inr (.inl ⟨_, rfl⟩)
  · simp only [runCommandInstr, execColRd] at h
    split at h
    · rcases readConns_cases (connsCol ‹_›) (bField w) s with ⟨x, _, e⟩ | ⟨_, e⟩ <;>
        rw [e] at h <;> cases h
      · exact .inr (.inr (.inl ⟨_, _, _, rfl⟩))
      · exact .inr (.inl ⟨_, rfl⟩)
    · cases h; exact .inr (.inl ⟨_, rfl⟩)
  · cases h
    exact .inr (.inr (.inr (.inr (.inr (.inr (.inr ⟨word_of_fields (o := 9) ho ha hb, rfl⟩))))))

/-- Everything a host access can do. -/
theorem access_cases {acc : BusAccess} {s t : State} (h : exec (decodeAccess acc) s = .next t) :
    (∃ b, t = { s with bus := b }) ∨ (∃ b, t = { s with ie := b }) ∨
    (s.busy = false ∧ ∃ c, t = { s with cap := c }) ∨ (∃ e, t = s.raise e) ∨
    (∃ hi lo d, t = { s with dataHi := hi, dataLo := lo, draws := d }) ∨
    ∃ w, acc = .write 32 0x08 w ∧ runCommand w s = .next t := by
  cases acc with
  | read bits off =>
    simp only [decodeAccess, exec, execRegRd, State.refuseAccess] at h
    split at h <;> cases h <;> exact .inl ⟨_, rfl⟩
  | write bits off v =>
    simp only [decodeAccess, exec, execRegWr, State.refuseAccess] at h
    split at h
    case isFalse => cases h; exact .inl ⟨_, rfl⟩
    case isTrue ha =>
    obtain ⟨rfl, _⟩ := (accepts_iff _ _).1 ha
    unfold writeReg at h
    split at h
    case h_1 he =>
      exact .inr (.inr (.inr (.inr (.inr ⟨v, by rw [BitVec.eq_of_toNat_eq (y := 0x08) he], h⟩))))
    · cases h; exact .inr (.inl ⟨_, rfl⟩)
    · split at h <;> cases h
      · exact .inr (.inr (.inr (.inl ⟨_, rfl⟩)))
      · exact .inr (.inr (.inl ⟨by simpa using ‹¬ s.busy = true›, _, rfl⟩))
    · cases h; exact .inr (.inr (.inr (.inr (.inl ⟨_, _, _, rfl⟩))))
    · cases h; exact .inr (.inr (.inr (.inr (.inl ⟨_, _, _, rfl⟩))))
    · cases h; exact .inl ⟨_, rfl⟩

end Sys2Proof.Machine
end

