-- ==== Sys2Proof/Laws/PerInstr.lean ====
section
/-! SUPPORT. Facts of the syntax, instruction by instruction. The family `RoundTrip`: decoding the
encoding of an instruction gives it back, with every operand. -/

namespace Sys2Proof.Laws.RoundTrip

/-- Decoding the encoding of `i` gives `i`. -/
def Statement (i : Instr) : Prop := i.wellFormed = true → Sys2Proof.decode (encode i) = .ok i

theorem nop : Statement .nop := fun _ => rfl

theorem llrWr (a : BitVec 12) : Statement (.llrWr a) := fun _ => by
  simp [encode, Sys2Proof.decode, decodeCommand, ifZero]

theorem llrRd (a : BitVec 12) : Statement (.llrRd a) := fun _ => by
  simp [encode, Sys2Proof.decode, decodeCommand, ifZero]

theorem decode : Statement .decode := fun _ => rfl

theorem check : Statement .check := fun _ => rfl

theorem pack : Statement .pack := fun _ => rfl

theorem hRd (i a : BitVec 12) : Statement (.hRd i a) := fun _ => by
  simp [encode, Sys2Proof.decode, decodeCommand]

theorem rowRd (i k : BitVec 12) : Statement (.rowRd i k) := fun _ => by
  simp [encode, Sys2Proof.decode, decodeCommand]

theorem colRd (a k : BitVec 12) : Statement (.colRd a k) := fun _ => by
  simp [encode, Sys2Proof.decode, decodeCommand]

theorem clear : Statement .clear := fun _ => rfl

theorem regRd (bits : Nat) (off : BitVec 8) : Statement (.regRd bits off) := fun _ => rfl

theorem regWr (bits : Nat) (off : BitVec 8) (v : Word) : Statement (.regWr bits off v) :=
  fun _ => rfl

theorem init : Statement .init := fun _ => rfl

theorem conv : Statement .conv := fun _ => rfl

theorem cnu : Statement .cnu := fun _ => rfl

theorem vnu : Statement .vnu := fun _ => rfl

theorem marg : Statement .marg := fun _ => rfl

end Sys2Proof.Laws.RoundTrip
end

