-- ==== Sys2Proof/Laws/Step.lean ====
section
/-! SUPPORT. What comes next, by the head of the input list, and the three kinds of step. -/

namespace Sys2Proof.Machine

@[simp] theorem enginePhase_idle : enginePhase .idle = none := rfl
@[simp] theorem enginePhase_init : enginePhase .init = some .init := rfl
@[simp] theorem enginePhase_conv : enginePhase .conv = some .conv := rfl
@[simp] theorem enginePhase_cnu : enginePhase .cnu = some .cnu := rfl
@[simp] theorem enginePhase_vnu : enginePhase .vnu = some .vnu := rfl
@[simp] theorem enginePhase_marg : enginePhase .marg = some .marg := rfl

@[simp] theorem ofCode_code (p : Phase) : Phase.ofCode p.code = some p := by cases p <;> rfl

theorem fetch_nil {s : State} (h : s.inputs = []) : fetch s = (enginePhase s.phase, s) := by
  unfold fetch; rw [h]

theorem fetch_engineTurn {s : State} {rest : List Input} (h : s.inputs = .engineTurn :: rest) :
    fetch s = (enginePhase s.phase, { s with inputs := rest }) := by
  unfold fetch; rw [h]

theorem fetch_reset {s : State} {rest : List Input} (h : s.inputs = .reset :: rest) :
    fetch s = (none, ({ s with inputs := rest } : State).resetStep) := by
  unfold fetch; rw [h]

theorem fetch_access {s : State} {acc : BusAccess} {rest : List Input}
    (h : s.inputs = .access acc :: rest) :
    fetch s = (some (decodeAccess acc), { s with inputs := rest, bus := .accepted }) := by
  unfold fetch; rw [h]

/-- The three kinds of step: a reset, a host access, and the engine's turn. -/
theorem step_cases (s : State) :
    (∃ rest, s.inputs = .reset :: rest ∧
      step s = .next ({ s with inputs := rest } : State).resetStep) ∨
    (∃ acc rest, s.inputs = .access acc :: rest ∧
      step s = exec (decodeAccess acc) { s with inputs := rest, bus := .accepted }) ∨
    (s.engineMoves = true ∧ ∃ rest,
      (s.inputs = [] ∧ rest = [] ∨ s.inputs = .engineTurn :: rest) ∧
      ((s.phase = .idle ∧ step s = .next { s with inputs := rest }) ∨
        ∃ i, enginePhase s.phase = some i ∧ step s = exec i { s with inputs := rest })) := by
  cases hi : s.inputs with
  | nil =>
    refine .inr (.inr ⟨by simp [State.engineMoves, hi], [], .inl ⟨rfl, rfl⟩, ?_⟩)
    have : ({ s with inputs := [] } : State) = s := by cases s; simp_all
    unfold step
    rw [fetch_nil hi, this]
    cases s.phase <;> simp
  | cons x rest =>
    cases x with
    | reset => exact .inl ⟨rest, rfl, by unfold step; rw [fetch_reset hi]⟩
    | access acc => exact .inr (.inl ⟨acc, rest, rfl, by unfold step; rw [fetch_access hi]⟩)
    | engineTurn =>
      refine .inr (.inr ⟨by simp [State.engineMoves, hi], rest, .inr rfl, ?_⟩)
      unfold step
      rw [fetch_engineTurn hi]
      cases s.phase <;> simp

end Sys2Proof.Machine
end

