-- ==== Sys2Proof/Machine/HostSyntax.lean ====
section
/-! DEFINITION. The host's assembly syntax and its pseudo-instructions, as lists of inputs
(spec/30_encoding.md R87, R88). -/

namespace Sys2Proof.Machine

/-- The named registers of the window (spec/10_state.md R27). -/
inductive Reg where
  | id | param | cmd | status | ctrl | iterCap | iterCount | dataLo | dataHi | msg0 | msg1 | msg2 | msg3
  deriving DecidableEq, Repr

/-- The offset of a register (R27). -/
def regOffset : Reg → BitVec 8
  | .id => 0x00
  | .param => 0x04
  | .cmd => 0x08
  | .status => 0x0C
  | .ctrl => 0x10
  | .iterCap => 0x14
  | .iterCount => 0x18
  | .dataLo => 0x20
  | .dataHi => 0x24
  | .msg0 => 0x30
  | .msg1 => 0x34
  | .msg2 => 0x38
  | .msg3 => 0x3C

/-- `wr <REG>, <value32>` (R87). -/
def wr (reg : Reg) (v : Word) : Input := .access (.write 32 (regOffset reg) v)

/-- `rd <REG>` (R87). The value it gives is `State.bus` after its step. -/
def rd (reg : Reg) : Input := .access (.read 32 (regOffset reg))

/-- `cmd <MNEMONIC> [A,] [B]`: `wr CMD, enc(OPC, A, B)` (R87). -/
def cmd (opc : BitVec 8) (a b : BitVec 12) : Input := wr .cmd (enc opc a b)

/-- `LOADLLR a, x` (R88). -/
def loadLlr (a : BitVec 12) (x : F64) : List Input :=
  [wr .dataLo (x.extractLsb' 0 32), wr .dataHi (x.extractLsb' 32 32), cmd 0x01 0 a]

/-- `READLLR a` (R88). -/
def readLlrSeq (a : BitVec 12) : List Input := [cmd 0x02 0 a, rd .dataLo, rd .dataHi]

/-- `WAITIDLE`, for a poll of `n` reads (R88): the host issues reads until one shows `BUSY` = 0. -/
def waitIdle (n : Nat) : List Input := List.replicate n (rd .status)

/-- `RUN`, for a poll of `n` reads (R88). -/
def runDecode (n : Nat) : List Input := cmd 0x03 0 0 :: waitIdle n

/-- `SETCAP n` (R88). -/
def setCap (n : BitVec 16) : Input := wr .iterCap (n.setWidth 32)

end Sys2Proof.Machine
end

