-- ==== Sys2Proof/Tests/Slice0.lean ====
section
/-! SUPPORT. Tests against the worked examples of spec/ (spec/95_test_vectors.md unless a rule is named),
and, for each statement with hypotheses, a state that meets them. -/

namespace Sys2Proof.Tests

open Sys2Proof.Machine

/-- What a step left, seen through `f`. -/
def after {α : Type} (a : Answer) (f : State → α) : Option α :=
  match a with
  | .next t => some (f t)
  | .fault _ => none
  | .refused _ => none

/-- The reset state with a whole LLR buffer written. -/
def loaded (f : Col → F64) : State :=
  { State.reset with llr := tabulate f, written := tabulate fun _ => true }

/-- The codeword of part 1.1, 32 bytes, most significant bit first. -/
def codewordBytes : List Nat :=
  [0xA7, 0x15, 0x66, 0x01, 0x40, 0x0C, 0x02, 0x79, 0xC5, 0x47, 0x47, 0xA0, 0xA0, 0x7F, 0x48, 0xF6,
   0x1E, 0x21, 0x5B, 0xAA, 0xD2, 0xBF, 0x43, 0xDF, 0x2E, 0x54, 0xFE, 0x18, 0xE6, 0x4A, 0x1A, 0x6F]

/-- Vector V1: −10.0 where the codeword has a 1, else +10.0. -/
def v1 (a : Col) : F64 :=
  if (codewordBytes.getD (a.val / 8) 0).testBit (7 - a.val % 8) then 0xC024000000000000
  else 0x4024000000000000

/-! ### Well-formedness: an ill-formed term for each check -/

theorem test_wellFormed_refuses_empty_read : (Instr.regRd 0 0).wellFormed = false := by decide

theorem test_wellFormed_refuses_ragged_read : (Instr.regRd 12 0).wellFormed = false := by decide

theorem test_wellFormed_refuses_ragged_write : (Instr.regWr 20 0 0).wellFormed = false := by decide

theorem test_wellFormed_refuses_wide_data : (Instr.regWr 8 0 0x100).wellFormed = false := by decide

theorem test_wellFormed_accepts_word_write : (Instr.regWr 32 8 0x07000001).wellFormed = true := by
  decide

/-! ### Decoding: words written out from spec/30_encoding.md R83 and spec/10_state.md R26 -/

theorem test_decode_nop : decodeCommand 0x00000000 = .ok .nop := by decide
theorem test_decode_llrWr : decodeCommand 0x010000C8 = .ok (.llrWr 200) := by decide
theorem test_decode_llrRd : decodeCommand 0x02000005 = .ok (.llrRd 5) := by decide
theorem test_decode_decode : decodeCommand 0x03000000 = .ok .decode := by decide
theorem test_decode_check : decodeCommand 0x04000000 = .ok .check := by decide
theorem test_decode_pack : decodeCommand 0x05000000 = .ok .pack := by decide
theorem test_decode_hRd : decodeCommand 0x0607F0DF = .ok (.hRd 127 223) := by decide
theorem test_decode_rowRd : decodeCommand 0x0707F007 = .ok (.rowRd 127 7) := by decide
theorem test_decode_colRd : decodeCommand 0x080C8003 = .ok (.colRd 200 3) := by decide
theorem test_decode_clear : decodeCommand 0x09000000 = .ok .clear := by decide
theorem test_decode_reserved : decodeCommand 0x0A000000 = .error .reservedOpcode := by decide
theorem test_decode_bad_nop : decodeCommand 0x00000001 = .error .operandNotZero := by decide
theorem test_decode_bad_llrWr : decodeCommand 0x01001005 = .error .operandNotZero := by decide
theorem test_decode_bad_clear : decodeCommand 0x09000001 = .error .operandNotZero := by decide
theorem test_decode_init : decode (.phase 0b001) = .ok .init := by decide
theorem test_decode_conv : decode (.phase 0b010) = .ok .conv := by decide
theorem test_decode_cnu : decode (.phase 0b011) = .ok .cnu := by decide
theorem test_decode_vnu : decode (.phase 0b100) = .ok .vnu := by decide
theorem test_decode_marg : decode (.phase 0b101) = .ok .marg := by decide
theorem test_decode_reserved_phases : decode (.phase 6) = .error .reservedPhase ∧
    decode (.phase 7) = .error .reservedPhase ∧ decode (.phase 0) = .error .idlePhase := by decide
theorem test_decode_regRd : decode (.bus (.read 32 0x0C)) = .ok (.regRd 32 0x0C) := by decide
theorem test_decode_regWr : decode (.bus (.write 32 0x14 5)) = .ok (.regWr 32 0x14 5) := by decide

/-- Bytes as the bus carries them, lane 0 first: `ROW_RD 0, 1` is `01 00 00 07`. -/
theorem test_decode_bytes :
    decodeBytes [0x01, 0x00, 0x00, 0x07, 0xAA] = some (.ok (.rowRd 0 1), [0xAA]) := by decide

theorem test_decode_table_word : decodeTableWord 32 0x0607F0DF = some (.hRd 127 223) ∧
    decodeTableWord 8 4 = some .vnu ∧ decodeTableWord 8 7 = none := by decide

/-! ### Host access, part 2.4 -/

/-- H2. -/
theorem test_regRd_param : after (exec (.regRd 32 0x04) .reset) (·.bus) = some (.data 0x00018420) := by
  decide +kernel

/-- H5. -/
theorem test_regRd_refused : after (exec (.regRd 8 0x0C) .reset) (·.bus) = some (.refused 0x0C) := by
  decide +kernel

/-- H8. -/
theorem test_regWr_iterCap : after (exec (.regWr 32 0x14 0x00010005) .reset) (·.cap) = some 5 := by
  decide +kernel

/-- H22: rejected with BUSY. -/
theorem test_regWr_iterCap_busy : after (exec (.regWr 32 0x14 5) { State.reset with phase := .init })
    (fun t => (t.cap, statusWord t)) = some (100, 0x00001301) := by decide +kernel

/-- H10 and the example of R196. -/
theorem test_llrWr_stores :
    after (exec (.llrWr 5) { State.reset with dataHi := 0xC0240000 })
      (fun t => (t.readLlr 0 5, t.written.get 5, t.written.get 4)) =
    some (0xC024000000000000, true, false) := by decide +kernel

/-- H21: BUSY before RANGE. -/
theorem test_llrWr_busy_first : after (exec (.regWr 32 0x08 0x01000100)
    { State.reset with phase := .init }) (·.err) = some .busy := by decide +kernel

/-- The example of R197. -/
theorem test_llrRd_loads : after (exec (.llrRd 5) (loaded v1)) (fun t => (t.dataHi, t.dataLo)) =
    some (0xC0240000, 0) := by decide +kernel

/-- H11. -/
theorem test_llrRd_range : after (exec (.llrRd 256) .reset) statusWord = some 0x00000200 := by
  decide +kernel

/-- H13. -/
theorem test_nop_bad_word : after (exec (.regWr 32 0x08 0x00000001) .reset) (·.err) =
    some .illegal := by decide +kernel

/-- H25: `STATUS` 0x346 becomes 0x4. -/
theorem test_clear_status :
    let s : State := { State.reset with done := true, result := .decoded, ie := true, err := .busy }
    statusWord s = 0x00000346 ∧ after (exec .clear s) statusWord = some 0x00000004 := by
  decide +kernel

/-- H18: a bad `CLEAR` clears nothing, and its ILLEGAL is not recorded. -/
theorem test_clear_bad_word : after (exec (.regWr 32 0x08 0x09000001)
    { State.reset with err := .range }) statusWord = some 0x00000200 := by decide +kernel

/-- H19. -/
theorem test_decode_starts : after (exec .decode { State.reset with result := .decoded, done := true })
    statusWord = some 0x00001001 := by decide +kernel

/-! ### Code structure, part 2.1 -/

/-- S2, S4. -/
theorem test_hRd : after (exec (.hRd 0 31) .reset) (·.dataLo) = some 1 ∧
    after (exec (.hRd 0 128) .reset) (·.dataLo) = some 0 := by decide +kernel

/-- S8. -/
theorem test_rowRd : after (exec (.rowRd 127 7) .reset) (fun t => (t.dataLo, t.dataHi)) =
    some (223, 8) := by decide +kernel

/-- S10. -/
theorem test_colRd : after (exec (.colRd 255 2) .reset) (fun t => (t.dataLo, t.dataHi)) =
    some (74, 3) := by decide +kernel

/-- S12. -/
theorem test_colRd_range : after (exec (.colRd 128 3) .reset) (·.err) = some .range := by
  decide +kernel

/-! ### Convergence test and packer, part 2.2 -/

/-- K2: V1 is a codeword. -/
theorem v1_isCodeword : isCodeword (tabulate v1) = true := by decide +kernel

/-- K2 as `STATUS` shows it: `CHK` and `CHK_VALID`. -/
theorem test_check_v1 : after (exec .check (loaded v1)) statusWord = some 0x00000030 := by
  have h : (loaded v1).llrVector = tabulate v1 := llrVector_written fun a => get_tabulate _ a
  simp only [exec, execCheck, after, h, v1_isCodeword]
  decide +kernel

/-- K4: one wrong sign fails. -/
theorem test_check_one_flip : after (exec .check (loaded fun a => if a = 0 then Fp.neg (v1 a) else v1 a))
    statusWord = some 0x00000020 := by decide +kernel

/-- K3. -/
theorem test_pack_v1 : after (exec .pack (loaded v1)) (fun t => [t.msg.get 0, t.msg.get 1, t.msg.get 2]) =
    some [0x016615A7, 0x79020C40, 0] := by decide +kernel

/-- The fixture of part 1.1 with `PACK_BITS` = 128. -/
theorem test_pack_fixture_128 : msgWord (packMessage 128 (tabulate v1)) 2 = 0xA04747C5 ∧
    msgWord (packMessage 128 (tabulate v1)) 3 = 0xF6487FA0 := by decide +kernel

/-! ### Decoder engine, part 2.3 and the examples of spec/42_decoder.md -/

/-- The example of R152. -/
theorem test_init_copies : after (exec .init (loaded v1)) (fun t => (t.r.get 0, (t.v.get 0).get 36,
    (t.v.get 0).get 2)) = some (0xC024000000000000, 0xC024000000000000, 0) := by decide +kernel

/-- V1: the first `CONV` ends DECODED. -/
theorem test_conv_v1 : after (exec .conv { State.reset with r := tabulate v1 })
    (fun t => (statusWord t, t.msg.get 0, t.msg.get 1)) =
    some (0x00000006, 0x016615A7, 0x79020C40) := by
  have ht : ¬ ({ State.reset with r := tabulate v1 } : State).t =
    ({ State.reset with r := tabulate v1 } : State).cap.toNat := by decide
  simp only [exec, execConv, after, if_neg ht, v1_isCodeword, if_true]
  decide +kernel

/-- V5: with `CAP` = 0 the same marginals end NOT_DECODED. -/
theorem test_conv_cap_zero : after (exec .conv { State.reset with r := tabulate v1, cap := 0 })
    (fun t => (statusWord t, t.msg.get 0)) = some (0x0000000A, 0) := by decide +kernel

/-- `TANH` at ±5.0, as the libm of R155's example gives it. -/
def tanhAt5 (x : F64) : F64 := if Fp.sign x then 0xBFEFFF419668DF11 else 0x3FEFFF419668DF11

/-- R155's example (V1 with entry 0 negated): the seven factors' product is −0.9993646029331549, and
with `ATANH` of it as that libm gives it, `u[0][0]` = −8.054089883922842. -/
theorem test_cnu_example :
    checkMessage tanhAt5
      (fun p => if p = 0xBFEFFACB79CC17F8 then 0xC0101BB1AB54FC70 else Fp.posZero)
      (tabulate fun a => tabulate fun _ => if a = 0 then Fp.neg (v1 a) else v1 a) 0 0 =
    0xC0201BB1AB54FC70 := by decide +kernel

/-- `CNU` moves to `VNU` and leaves `u` off the edges: (0, 30) is no edge (S3). -/
theorem test_cnu_off_edge : after (exec .cnu State.reset) (fun t => (t.phase, (t.u.get 0).get 30)) =
    some (.vnu, 0) := by decide +kernel

/-- The messages of R156's example: every check of column 0 sends −8.054089883922842. -/
def flipState : State :=
  { loaded (fun _ => 0x4024000000000000) with
    u := tabulate fun i =>
      Vector.replicate 256 (if hBit i 0 then 0xC0201BB1AB54FC70 else Fp.posZero) }

/-- R156's example: `v[0][0]` = −22.216359535691367. -/
theorem test_vnu_example : after (exec .vnu flipState) (fun t => ((t.v.get 0).get 0, t.phase)) =
    some (0xC036376356A9F8E0, .marg) := by decide +kernel

/-- R157's example: `r[0]` = −30.27044941961421. -/
theorem test_marg_example : after (exec .marg flipState) (fun t => (t.r.get 0, t.t, t.phase)) =
    some (0xC03E453C2C547718, 1, .conv) := by decide +kernel

/-! ### Floating point (binary64 arithmetic worked by hand) -/

/-- 1 + 2^−53 is a tie and goes to even; 1 + 3·2^−53 goes up to 1 + 2^−51. -/
theorem test_fadd_ties : Fp.fadd Fp.one 0x3CA0000000000000 = Fp.one ∧
    Fp.fadd Fp.one 0x3CB8000000000000 = 0x3FF0000000000002 := by decide +kernel

theorem test_fmul_overflow_and_underflow :
    Fp.fmul 0x7FEFFFFFFFFFFFFF Fp.two = Fp.posInf ∧
    Fp.fmul 0x8000000000000001 0x3FE0000000000000 = Fp.negZero := by decide +kernel

theorem test_fhalf_subnormal_tie : Fp.fhalf 0x0000000000000003 = 0x0000000000000002 := by
  decide +kernel

/-! ### Steps: reset, both orders of R228, host syntax, unwritten entries -/

/-- R-3: a reset while a decode runs. -/
theorem test_reset_abandons : after (step { State.reset with
    phase := .cnu, t := 3, result := .none, cap := 7, inputs := [.reset] })
    (fun t => (statusWord t, t.t, t.cap)) = some (0, 0, 100) := by decide +kernel

/-- R228, the host first: the `DECODE` is rejected. -/
theorem test_race_host_first : after (runSteps 2 { State.reset with
    phase := .conv, cap := 0, inputs := [cmd 0x03 0 0, .engineTurn] }) statusWord =
    some 0x0000030A := by decide +kernel

/-- R228, the engine first: the `DECODE` starts a new decode. -/
theorem test_race_engine_first : after (runSteps 2 { State.reset with
    phase := .conv, cap := 0, inputs := [.engineTurn, cmd 0x03 0 0] }) statusWord =
    some 0x00001001 := by decide +kernel

/-- `LOADLLR` and `READLLR` (R88). -/
theorem test_loadLlr_readLlr : after (runSteps 6 { State.reset with
    inputs := loadLlr 7 0xC024000000000000 ++ readLlrSeq 7 })
    (fun t => (t.bus, t.dataLo, t.inputs)) = some (.data 0xC0240000, 0, []) := by decide +kernel

/-- K14, R-4: the stopping reading faults. -/
theorem test_strict_unwritten :
    (match strictExec .check .reset with | .fault f => some f | _ => none) =
      some .unwrittenLlrRead ∧
    (match strictStep { State.reset with inputs := [cmd 0x02 0 0] } with
      | .fault f => some f | _ => none) = some .unwrittenLlrRead := by decide +kernel

/-- K15: `PACK` reads `LLR[0..63]` only. -/
theorem test_strict_pack : after (strictExec .pack { loaded (fun _ => Fp.one) with
    written := tabulate fun a => decide (a.val < 64) }) (fun t => t.msg.get 0) = some 0 := by
  decide +kernel

/-- A word placed for each format runs next after reset. -/
theorem test_placed_words :
    after (step (State.reset.withFetchWord 32 0x07000001)) (·.dataLo) = some 31 ∧
    after (step (State.reset.withFetchWord 8 5)) (·.t) = some 1 := by decide +kernel

/-! ### For each statement with hypotheses, states and operands that meet them, clause by clause, at the
edge of a range where there is one. The engine phases' statements have clauses about edges and about
written entries: (0, 31) is an edge and (0, 30) is none. -/

/-- A decode in its first `CONV`, all entries written, one marginal wrong. -/
def running : State :=
  { loaded v1 with
    r := tabulate fun a => if a = 0 then Fp.neg (v1 a) else v1 a
    phase := .conv, cap := 3 }

/-- A decode just accepted, all entries written. -/
def started : State := { loaded v1 with phase := .init }

theorem loaded_allWritten (f : Col → F64) : (loaded f).allWritten := fun a => get_tabulate _ a

theorem running_inv : running.Inv where
  running_shows_nothing _ := ⟨rfl, rfl, fun w => get_replicate _ w⟩
  t_le_cap _ := by decide
  update_below_cap h := by simp [running] at h
  init_t_zero h := by simp [running] at h
  t_visible := by decide
  done_has_result h := by simp [running, loaded, State.reset] at h
  chk_is_valid h := by simp [running, loaded, State.reset] at h
  u_zero_off_edges _ _ i a _ := by simp [running, loaded, State.reset, Fp.posZero]
  v_zero_off_edges _ _ i a _ := by simp [running, loaded, State.reset, Fp.posZero]

theorem next_of_after {α : Type} {a : Answer} {f : State → α} {x : α} (h : after a f = some x) :
    ∃ t, a = .next t ∧ f t = x := by
  cases a with
  | next t => exact ⟨t, rfl, by simpa [after] using h⟩
  | fault _ => simp [after] at h
  | refused _ => simp [after] at h

theorem witness_EveryStepKeepsInvariant : running.Inv ∧ ∃ t, step running = .next t ∧ t.phase = .cnu :=
  ⟨running_inv, next_of_after (f := (·.phase)) (by decide +kernel)⟩

theorem witness_DecodeAndEncodeAreInverse : (Instr.regWr 32 0xFF 0xFFFFFFFF).wellFormed = true ∧
    (Instr.regRd 8 0).wellFormed = true ∧
    decode (.command 0x08FFFFFF) = .ok (.colRd 0xFFF 0xFFF) := by decide

theorem witness_ReservedWordsAreIllegal : wordIllegal 0x0A000000 ∧ wordIllegal 0xFFFFFFFF ∧
    wordIllegal 0x00000001 ∧ wordIllegal 0x01001000 := by decide

theorem witness_FirstFailingCheckDecides :
    wordIllegal 0x01001000 ∧
    (¬ wordIllegal 0x01000100 ∧ wordBusy 0x01000100 running) ∧
    (¬ wordIllegal 0x01000100 ∧ ¬ wordBusy 0x01000100 .reset ∧ wordRange 0x01000100) ∧
    (¬ wordIllegal 0x080FF002 ∧ ¬ wordBusy 0x080FF002 running ∧ ¬ wordRange 0x080FF002) ∧
    (¬ wordIllegal 0x080FF003 ∧ ¬ wordBusy 0x080FF003 running ∧ wordRange 0x080FF003) := by
  refine ⟨by decide, ⟨by decide, ?_⟩, ⟨by decide, ?_, ?_⟩, ⟨by decide, ?_, ?_⟩, by decide, ?_, ?_⟩ <;>
    decide +kernel

theorem witness_RejectionChangesOnlyErr :
    State.reset.err = .none ∧ ({ State.reset with err := .range } : State).err ≠ .none ∧
    wordIllegal 0x0A000000 ∧ running.busy = true := by decide +kernel

theorem witness_OtherAccessesAreRefused : (16 ≠ 32 ∨ (0x0C : BitVec 8).toNat % 4 ≠ 0) ∧
    (32 ≠ 32 ∨ (0x22 : BitVec 8).toNat % 4 ≠ 0) := by decide

theorem witness_ErrIsStickyUntilClearOrReset :
    let s : State := { State.reset with err := .busy, inputs := [.reset] }
    (∃ t, step s = .next t) ∧ s.err ≠ .none := ⟨⟨_, rfl⟩, by decide⟩

theorem witness_opcode_fields (o : BitVec 8) : opcField (enc o 0xFFF 0) = o ∧
    aField (enc o 0xFFF 0) ≠ 0 ∧ opcField (enc o 0 1) = o ∧ bField (enc o 0 1) ≠ 0 := by
  simp

/-- The ILLEGAL clauses of `NOP`, `LLR_WR`, `LLR_RD`, `DECODE`, `CHECK`, `PACK` and `CLEAR`. -/
theorem witness_nonzero_operand_words : ∀ o ∈ ([0x00, 0x01, 0x02, 0x03, 0x04, 0x05, 0x09] : List (BitVec 8)),
    ∃ w : Word, opcField w = o ∧ aField w ≠ 0 ∧ (aField w ≠ 0 ∨ bField w ≠ 0) := fun o _ =>
  ⟨enc o 0xFFF 0, by simp⟩

theorem witness_LlrWrStoresData :
    ((255 : BitVec 12).toNat < 256 ∧ State.reset.busy = false) ∧ running.busy = true ∧
    (State.reset.busy = false ∧ 256 ≤ (256 : BitVec 12).toNat) := by decide +kernel

theorem witness_LlrRdLoadsData :
    (loaded v1).written.get ⟨(255 : BitVec 12).toNat, by decide⟩ = true ∧
    State.reset.written.get ⟨(255 : BitVec 12).toNat, by decide⟩ = false ∧
    256 ≤ (256 : BitVec 12).toNat := by decide +kernel

/-- The statements about every step: a step that does change what each speaks of. -/
theorem witness_writers_over_steps :
    (after (step { State.reset with inputs := [cmd 0x01 0 255] })
      (fun t => t.written.get 255)) = some true ∧
    (after (step { State.reset with dataLo := 1, inputs := [cmd 0x01 0 255] })
      (fun t => t.llr.get 255)) = some 1 ∧
    (after (step { loaded v1 with inputs := [.reset] }) (fun t => t.written.get 0)) = some false ∧
    (after (step { loaded v1 with inputs := [cmd 0x05 0 0] }) (fun t => t.msg.get 0)) =
      some 0x016615A7 ∧
    (after (step { running with t := 2, phase := .marg }) (fun t => (t.t, t.phase))) =
      some (3, .conv) ∧
    (after (step { State.reset with t := 2, inputs := [cmd 0x03 0 0] }) (fun t => (t.t, t.phase))) =
      some (0, .init) ∧
    (after (step running) (fun t => t.phase)) = some .cnu := by decide +kernel

theorem witness_ClearAcknowledges : ∃ t, exec .clear .reset = .next t := ⟨_, rfl⟩

theorem witness_RegRdReturnsRegister : (8 ≠ 32 ∨ (0xFC : BitVec 8).toNat % 4 ≠ 0) ∧
    (0xFC : BitVec 8).toNat % 4 = 0 := by decide

theorem witness_RegWrWritesRegister : (32 ≠ 32 ∨ (0x15 : BitVec 8).toNat % 4 ≠ 0) ∧
    (∃ i, decodeCommand 0x09000000 = .ok i) ∧ (∃ e, decodeCommand 0x0A000000 = .error e) ∧ running.busy = true ∧ State.reset.busy = false ∧
    ((0x0C : BitVec 8).toNat % 4 = 0 ∧ (0x0C : BitVec 8) ≠ 0x08) :=
  ⟨by decide, ⟨_, rfl⟩, ⟨_, rfl⟩, by decide, by decide, by decide⟩

theorem witness_AccessSideEffects : (∀ off ∈ ([0x10, 0x14, 0x20, 0x24] : List (BitVec 8)),
    ∃ t, exec (.regWr 32 off 5) .reset = .next t) ∧
    ((0xFC : BitVec 8).toNat % 4 = 0 ∧
      (0xFC : BitVec 8) ∉ ([0x08, 0x10, 0x14, 0x20, 0x24] : List (BitVec 8))) ∧
    State.reset.busy = false ∧ State.reset.err = .none := by
  refine ⟨fun off h => ?_, by decide, rfl, rfl⟩
  simp only [List.mem_cons, List.not_mem_nil, or_false] at h
  rcases h with rfl | rfl | rfl | rfl <;> exact ⟨_, rfl⟩

theorem witness_IterCapReadsBack : State.reset.busy = false := by decide

theorem witness_WindowIsAtBase : 255 < 256 ∧ Config.base + 256 ≤ Config.base + 256 := by
  constructor <;> omega

theorem witness_InterruptIsEnableAndDone :
    (∃ t, exec .conv { running with cap := 0 } = .next t ∧ t.phase = .idle) ∧
    (State.reset.busy = false ∧ ∃ t, exec .decode .reset = .next t) ∧
    ((0 : Word).getLsbD 0 = false ∧ ∃ t, exec (.regWr 32 0x10 0) .reset = .next t) ∧
    (∃ t, exec .check .reset = .next t) ∧ (∃ t, exec .pack .reset = .next t) :=
  ⟨⟨_, rfl, rfl⟩, ⟨by decide, _, rfl⟩, ⟨by decide, _, rfl⟩, ⟨_, rfl⟩, ⟨_, rfl⟩⟩

theorem witness_HRdReadsOneBit : ((127 : BitVec 12).toNat < 128 ∧ (255 : BitVec 12).toNat < 256) ∧
    (128 ≤ (128 : BitVec 12).toNat ∧ 256 ≤ (256 : BitVec 12).toNat) := by decide

theorem witness_RowRdReadsRowIndex : ((127 : BitVec 12).toNat < 128 ∧ (7 : BitVec 12).toNat < 8) ∧
    8 ≤ (8 : BitVec 12).toNat := by decide

theorem witness_ColRdReadsColumnIndex :
    ((127 : BitVec 12).toNat < 256 ∧ (4 : BitVec 12).toNat < 5) ∧
    ((255 : BitVec 12).toNat < 256 ∧ (2 : BitVec 12).toNat < 3) ∧
    (if (127 : BitVec 12).toNat < 128 then 5 else 3) ≤ (5 : BitVec 12).toNat ∧
    (if (128 : BitVec 12).toNat < 128 then 5 else 3) ≤ (3 : BitVec 12).toNat := by decide

theorem witness_PackedBitsAreHardDecisions : 127 < 128 ∧ (64 = 64 ∨ 64 = 128) ∧
    (128 = 64 ∨ 128 = 128) := by decide

theorem witness_SingleFlipFailsItsRows :
    isCodeword (tabulate v1) = true ∧
    Fp.hard (Fp.neg (v1 0)) ≠ Fp.hard ((tabulate v1).get 0) ∧
    (∀ a, Fp.hard (v1 a) = Fp.hard (if Fp.hard (v1 a) then Fp.posZero else Fp.posInf)) :=
  ⟨v1_isCodeword, by decide +kernel, by decide +kernel⟩

theorem witness_CheckTestsTheBuffer : (loaded v1).allWritten ∧ ¬ State.reset.allWritten :=
  ⟨loaded_allWritten v1, fun h => by simpa [State.reset] using h 0⟩

theorem witness_PackPacksTheBuffer :
    ((loaded v1).busy = false ∧ ∀ a : Col, a.val < 64 → (loaded v1).written.get a = true) ∧
    running.busy = true ∧
    (State.reset.busy = false ∧ ∃ a : Col, a.val < 64 ∧ State.reset.written.get a = false) ∧
    (loaded v1).written.get ⟨(63 : Fin 64).val, by decide⟩ = true :=
  ⟨⟨rfl, fun a _ => loaded_allWritten v1 a⟩, rfl, ⟨rfl, 63, by decide, by simp [State.reset]⟩,
    loaded_allWritten v1 _⟩

theorem witness_FaddRoundsToNearestEven :
    (Fp.isFinite Fp.posZero = true ∧ Fp.value Fp.posZero + Fp.value Fp.negZero = 0) ∧
    (Fp.isFinite Fp.one = true ∧ Fp.value Fp.one + Fp.value Fp.posZero ≠ 0) ∧
    (Fp.isFinite 0x7FEFFFFFFFFFFFFF = true ∧ overflowUnits ≤
      (Fp.value 0x7FEFFFFFFFFFFFFF + Fp.value 0x7C90000000000000).natAbs) ∧
    (Fp.value 0x7FEFFFFFFFFFFFFF + Fp.value Fp.posZero).natAbs < overflowUnits := by decide +kernel

theorem witness_FmulRoundsToNearestEven :
    (Fp.isFinite 0x7FEFFFFFFFFFFFFF = true ∧ overflowUnits * 2 ^ 1074 ≤
      (Fp.value 0x7FEFFFFFFFFFFFFF * Fp.value Fp.two).natAbs) ∧
    (Fp.value 0x7FEFFFFFFFFFFFFF * Fp.value Fp.one).natAbs < overflowUnits * 2 ^ 1074 := by
  decide +kernel

theorem witness_FpSpecialOperands :
    Fp.isNaN 0x7FF8000000000000 = true ∧ Fp.isInf Fp.negInf = true ∧
    Fp.isFinite 0x7FEFFFFFFFFFFFFF = true ∧ Fp.isNaN Fp.negZero = false ∧
    Fp.isZero Fp.negZero = true ∧ Fp.isZero Fp.negInf = false ∧
    2 ^ 53 ≤ Fp.mag 0x0020000000000000 := by decide +kernel

theorem witness_DenseAndEdgeSumsAgree :
    ∀ i, hBit i 0 = false → (flipState.u.get i).get 0 = Fp.posZero := by
  intro i h
  simp [flipState, h]

theorem witness_DecodeStartsADecode : State.reset.busy = false ∧ running.busy = true ∧
    ∃ t, exec .decode .reset = .next t := ⟨rfl, rfl, _, rfl⟩

/-- The clauses of `INIT`, `CNU`, `VNU` and `MARG`. -/
theorem witness_edges : hBit 0 31 = true ∧ hBit 0 30 = false ∧ hBit 127 223 = true ∧
    started.written.get 31 = true := by decide +kernel

theorem witness_ConvTestsThenDecides :
    State.t { running with t := 3 } = (State.cap { running with t := 3 }).toNat ∧
    (running.t ≠ running.cap.toNat ∧ isCodeword (tabulate v1) = true) ∧
    isCodeword (tabulate fun a => if a = 0 then Fp.neg (v1 a) else v1 a) = false :=
  ⟨rfl, ⟨by decide, v1_isCodeword⟩, by decide +kernel⟩

theorem witness_PhaseTransitions :
    State.nextIsReset { running with inputs := [.reset] } = true ∧
    (State.reset.phase = .idle ∧
      State.nextCommand { State.reset with inputs := [cmd 0x03 0 0] } = some 0x03000000) ∧
    (started.engineMoves = true ∧ started.phase = .init) ∧
    (running.engineMoves = true ∧ running.phase = .conv ∧
      State.t { running with t := 3 } = running.cap.toNat ∧ running.t ≠ running.cap.toNat) ∧
    (∀ p : Phase, State.engineMoves { running with phase := p } = true) := by
  refine ⟨rfl, ⟨rfl, by decide⟩, ⟨rfl, rfl⟩, ⟨rfl, rfl, rfl, by decide⟩, fun _ => rfl⟩

theorem witness_CapZeroFailsUntested :
    let s : State := { started with cap := 0 }
    State.reset.busy = false ∧ s.phase = .init ∧ s.t = 0 ∧ s.cap = 0 ∧ s.inputs = [] :=
  ⟨rfl, rfl, rfl, rfl, rfl⟩

theorem witness_DecodeEndsInBoundedSteps : started.phase = .init ∧ started.t = 0 ∧
    started.inputs = [] ∧ 0 < 2 + 4 * 0 := ⟨rfl, rfl, rfl, by decide⟩

theorem witness_OutcomeDependsOnlyOnBufferAndCap :
    let s' : State := { started with r := tabulate fun _ => Fp.one }
    started.phase = .init ∧ s'.phase = .init ∧ started.allWritten ∧ s'.allWritten ∧
    started.llr = s'.llr ∧ started.cap = s'.cap ∧ started.t = s'.t ∧ started.done = s'.done ∧
    started.result = s'.result ∧ started.msg = s'.msg :=
  ⟨rfl, rfl, loaded_allWritten v1, loaded_allWritten v1, rfl, rfl, rfl, rfl, rfl, rfl⟩

theorem witness_HostAccessKeepsRunningDecode :
    let s : State := { running with inputs := [cmd 0x09 0 0] }
    s.Inv ∧ s.busy = true ∧ s.inputs = [cmd 0x09 0 0] :=
  ⟨⟨running_inv.1, running_inv.2, running_inv.3, running_inv.4, running_inv.5, running_inv.6,
    running_inv.7, running_inv.8, running_inv.9⟩, rfl, rfl⟩

theorem witness_HostAccessesCannotChangeOutcome :
    running.Inv ∧ running.allWritten ∧ Input.reset ∉ [cmd 0x09 0 0] ∧
    ∀ m, m ≤ [cmd 0x09 0 0].count .engineTurn →
      ∃ t, runSteps m running.alone = .next t ∧ t.busy = true := by
  refine ⟨running_inv, loaded_allWritten v1, by decide, fun m hm => ?_⟩
  have h0 : [cmd 0x09 0 0].count .engineTurn = 0 := by decide
  obtain rfl : m = 0 := by omega
  exact ⟨_, rfl, rfl⟩

theorem witness_ResetStepFromAnyState : ∃ s : State, s.inputs = .reset :: [] ∧ s.busy = true :=
  ⟨{ running with inputs := [.reset] }, rfl, rfl⟩

theorem witness_StepRunsTheNextInstruction :
    (decode (.bus (.read 32 0x0C)) = .ok (.regRd 32 0x0C)) ∧
    decode (.phase running.phase.code) = .ok .conv ∧ State.reset.phase = .idle ∧
    State.reset.inputs = [] := ⟨rfl, rfl, rfl, rfl⟩

theorem witness_PlacedWordRunsNext : decodeTableWord 32 0x09000000 = some .clear ∧
    decodeTableWord 8 5 = some .marg := by decide

theorem witness_StoppingReadingAgreesWithStep :
    (∃ t, strictStep .reset = .next t) ∧
    (running.allWritten ∧
      ∀ acc rest, running.inputs = .access acc :: rest → refusedAt (decodeAccess acc) = none) ∧
    (16 ≠ 32 ∧ (0x22 : BitVec 8).toNat % 4 ≠ 0 ∧ ∀ acc,
      State.inputs { State.reset with inputs := [.access acc] } = [.access acc]) ∧
    (∀ p : Phase, ¬ State.allWritten { State.reset with phase := p } ∧
      State.engineMoves { State.reset with phase := p } = true) ∧
    (State.reset.busy = false ∧ ∃ a : Col, a.val < 64 ∧ State.reset.written.get a = false) ∧
    ((loaded v1).busy = false ∧ ∀ a : Col, a.val < 64 → (loaded v1).written.get a = true) ∧
    (255 : BitVec 12).toNat < 256 ∧
    opcField 0x01000000 ∉ ([0x02, 0x04, 0x05] : List (BitVec 8)) ∧ (0xFC : BitVec 8).toNat % 4 = 0 :=
  ⟨⟨_, rfl⟩, ⟨loaded_allWritten v1, fun _ _ h => by simp [running, loaded, State.reset] at h⟩,
    ⟨by decide, by decide, fun _ => rfl⟩, fun _ => ⟨fun h => by simpa [State.reset] using h 0, rfl⟩,
    ⟨rfl, 63, by decide, by simp [State.reset]⟩, ⟨rfl, fun a _ => loaded_allWritten v1 a⟩,
    by decide, by decide, by decide⟩

end Sys2Proof.Tests
end

section
/-! Facts about the binary64 format: a pattern is its sign and its magnitude bits, and the exact
value of a pattern, read off its magnitude bits, grows with them. -/

namespace Sys2Proof.Fp

theorem toNat_eq_mag_add_sign (x : F64) : x.toNat = mag x + if sign x then 2 ^ 63 else 0 := by
  have hlt := x.isLt
  cases h : sign x <;> simp only [sign, BitVec.msb_eq_decide, decide_eq_true_eq,
    decide_eq_false_iff_not] at h <;> simp [mag] <;> omega

theorem infMag_lt : infMag < 2 ^ 63 := by decide

theorem ofSignMag_infMag (s : Bool) :
    ofSignMag s infMag = if s then negInf else posInf := by cases s <;> rfl

theorem ofSignMag_zero (s : Bool) :
    ofSignMag s 0 = if s then negZero else posZero := by cases s <;> rfl

@[simp] theorem isNaN_freeNaN (op : Nat) (x y : F64) : isNaN (freeNaN op x y) = true := by
  have h : mag (Config.freeNaN op x y) % (2 ^ 52 - 1) < 2 ^ 52 - 1 := Nat.mod_lt _ (by decide)
  have hlt : infMag + 1 + mag (Config.freeNaN op x y) % (2 ^ 52 - 1) < 2 ^ 63 := by
    simp only [infMag]; omega
  rw [freeNaN, isNaN_ofSignMag _ hlt, decide_eq_true_eq]
  omega

/-! ### The exact value of magnitude bits -/

/-- `units` as a function of the magnitude bits, and past those of ±∞ as if the exponent were
unbounded: what rounding compares before it overflows. -/
def magUnits (m : Nat) : Nat :=
  if m / 2 ^ 52 = 0 then m % 2 ^ 52 else (2 ^ 52 + m % 2 ^ 52) <<< (m / 2 ^ 52 - 1)

theorem units_eq_magUnits (x : F64) : units x = magUnits (mag x) := rfl

@[simp] theorem magUnits_zero : magUnits 0 = 0 := rfl

/-- A significand `q` at exponent `e`: a subnormal, a normal, or the carry `q = 2^53` into the
next binade. -/
theorem magUnits_significand {e q : Nat} (hq : q ≤ 2 ^ 53) (he : e = 0 ∨ 2 ^ 52 ≤ q) :
    magUnits (e * 2 ^ 52 + q) = q * 2 ^ e := by
  obtain hsub | hnorm | hcarry : q < 2 ^ 52 ∨ (2 ^ 52 ≤ q ∧ q < 2 ^ 53) ∨ q = 2 ^ 53 := by omega
  · have h0 : e = 0 := by omega
    subst h0
    rw [magUnits, if_pos (by omega)]
    omega
  · have hdiv : (e * 2 ^ 52 + q) / 2 ^ 52 = e + 1 := by omega
    have hmod : 2 ^ 52 + (e * 2 ^ 52 + q) % 2 ^ 52 = q := by omega
    rw [magUnits, if_neg (by omega), hdiv, hmod, Nat.shiftLeft_eq, Nat.add_sub_cancel]
  · have hdiv : (e * 2 ^ 52 + q) / 2 ^ 52 = e + 2 := by omega
    have hmod : (e * 2 ^ 52 + q) % 2 ^ 52 = 0 := by omega
    rw [magUnits, if_neg (by omega), hdiv, hmod, Nat.shiftLeft_eq, hcarry,
      show e + 2 - 1 = e + 1 by omega, pow_succ]
    omega

theorem exists_significand (m : Nat) :
    ∃ e q, m = e * 2 ^ 52 + q ∧ q < 2 ^ 53 ∧ (e = 0 ∨ 2 ^ 52 ≤ q) :=
  ⟨m / 2 ^ 52 - 1, m - (m / 2 ^ 52 - 1) * 2 ^ 52, by omega, by omega, by omega⟩

theorem magUnits_strictMono : StrictMono magUnits := by
  refine strictMono_nat_of_lt_succ fun m => ?_
  obtain ⟨e, q, rfl, hq, he⟩ := exists_significand m
  rw [magUnits_significand hq.le he, add_assoc, magUnits_significand hq (by omega)]
  exact Nat.mul_lt_mul_of_pos_right q.lt_succ_self (Nat.two_pow_pos e)

/-- Adding one to a normal number's exponent field doubles its value. -/
theorem magUnits_add_binade {m : Nat} (h : 2 ^ 52 ≤ m) :
    magUnits (m + 2 ^ 52) = 2 * magUnits m := by
  obtain ⟨e, q, rfl, hq, he⟩ := exists_significand m
  have hq' : 2 ^ 52 ≤ q := by omega
  rw [show e * 2 ^ 52 + q + 2 ^ 52 = (e + 1) * 2 ^ 52 + q by ring,
    magUnits_significand hq.le (.inr hq'), magUnits_significand hq.le he]
  ring

theorem magUnits_infMag : magUnits infMag = 2 ^ 53 * 2 ^ 2045 := by
  rw [show infMag = 2045 * 2 ^ 52 + 2 ^ 53 by decide,
    magUnits_significand le_rfl (.inr (by decide))]

theorem magUnits_maxFinite : magUnits (infMag - 1) = (2 ^ 53 - 1) * 2 ^ 2045 := by
  rw [show infMag - 1 = 2045 * 2 ^ 52 + (2 ^ 53 - 1) by decide,
    magUnits_significand (by decide) (.inr (by decide))]

/-- The overflow threshold is halfway between the largest finite value and 2^1024. -/
theorem two_mul_overflowUnits :
    2 * Machine.overflowUnits = magUnits (infMag - 1) + magUnits infMag := by
  rw [magUnits_infMag, magUnits_maxFinite, Machine.overflowUnits, pow_succ 2 2044]
  generalize 2 ^ 2044 = t
  omega

theorem value_ofSignMag (s : Bool) {m : Nat} (h : m < 2 ^ 63) :
    value (ofSignMag s m) = if s then -(magUnits m : Int) else magUnits m := by
  rw [value, units_eq_magUnits, sign_ofSignMag s h, mag_ofSignMag s h]

theorem natAbs_value (x : F64) : (value x).natAbs = units x := by
  rw [value]
  split <;> simp

end Sys2Proof.Fp
end

section
/-! Rounding (`roundMag`): the rounded magnitude is nearest to the exact one among all magnitudes, with
ties to even, and it reaches ±∞ exactly from the overflow threshold on. -/

namespace Sys2Proof.Fp

open Sys2Proof.Machine (overflowUnits IsNearestEven)

/-- The distance of the magnitude bits `m` from the exact `n / scale`, times `scale`. -/
def magError (n scale m : Nat) : Nat := ((magUnits m * scale : Nat) - (n : Int)).natAbs

/-- No magnitude is nearer to the exact `n / scale` than `m`, and if another is as near, `m` is even.
The magnitudes past those of ±∞ count too. -/
def IsNearestMag (n scale m : Nat) : Prop :=
  ∀ m', magError n scale m ≤ magError n scale m' ∧
    (magError n scale m = magError n scale m' → magUnits m ≠ magUnits m' → m % 2 = 0)

/-- Of two neighbouring magnitudes around the exact value, the nearer one, or the even one of two as
near, is nearest among all. -/
theorem isNearestMag_of_neighbours {n scale lo m : Nat} (hlo : magUnits lo * scale ≤ n)
    (hhi : n < magUnits (lo + 1) * scale)
    (hm : (m = lo + 1 ∧ magError n scale m ≤ magError n scale lo) ∨
      (m = lo ∧ magError n scale m ≤ magError n scale (lo + 1)))
    (heven : magError n scale lo = magError n scale (lo + 1) → m % 2 = 0) :
    IsNearestMag n scale m := by
  intro m'
  have hm' : magUnits m' * scale ≤ magUnits lo * scale ∨
      magUnits (lo + 1) * scale ≤ magUnits m' * scale := by
    obtain h | h : m' ≤ lo ∨ lo + 1 ≤ m' := by omega
    · exact .inl (Nat.mul_le_mul_right _ (magUnits_strictMono.monotone h))
    · exact .inr (Nat.mul_le_mul_right _ (magUnits_strictMono.monotone h))
  have hne : magUnits m ≠ magUnits m' → magUnits m * scale ≠ magUnits m' * scale :=
    fun h h' => h (Nat.eq_of_mul_eq_mul_right (Nat.pos_of_ne_zero fun h => by simp [h] at hhi) h')
  simp only [magError] at hm heven ⊢
  obtain ⟨rfl, hm⟩ | ⟨rfl, hm⟩ := hm <;> omega

/-- How many low bits of `n` `roundMag k n` drops. -/
def droppedBits (k n : Nat) : Nat := max k (n.log2 - 52)

theorem le_droppedBits (k n : Nat) : k ≤ droppedBits k n := le_max_left _ _

/-- What `roundMag` computes before it cuts the result off at ±∞. -/
def roundMagUnbounded (k n : Nat) : Nat :=
  (droppedBits k n - k) * 2 ^ 52 + rneShift n (droppedBits k n)

theorem roundMag_eq_min (k n : Nat) : roundMag k n = min (roundMagUnbounded k n) infMag := rfl

/-- The bits `rneShift` keeps are a significand: at most 53, and 53 where any are dropped above the
subnormal spacing. -/
theorem keptBits_significand (k n : Nat) :
    n / 2 ^ droppedBits k n < 2 ^ 53 ∧
    (droppedBits k n - k = 0 ∨ 2 ^ 52 ≤ n / 2 ^ droppedBits k n) := by
  rw [droppedBits]
  constructor
  · rw [Nat.div_lt_iff_lt_mul (Nat.two_pow_pos _), ← pow_add]
    exact Nat.lt_log2_self.trans_le (Nat.pow_le_pow_right (by decide) (by omega))
  · obtain h | h : n.log2 - 52 ≤ k ∨ k < n.log2 - 52 := by omega
    · exact .inl (by omega)
    · right
      rw [Nat.le_div_iff_mul_le (Nat.two_pow_pos _), ← pow_add,
        show 52 + max k (n.log2 - 52) = n.log2 by omega]
      exact Nat.log2_self_le (by rintro rfl; simp at h)

/-- Rounding compares the dropped bits with half of the last kept place. -/
theorem rneShift_cases (n d : Nat) :
    (2 ^ d < 2 * (n % 2 ^ d) ∧ rneShift n d = n / 2 ^ d + 1) ∨
    (2 * (n % 2 ^ d) < 2 ^ d ∧ rneShift n d = n / 2 ^ d) ∨
    (2 * (n % 2 ^ d) = 2 ^ d ∧ rneShift n d % 2 = 0 ∧
      (rneShift n d = n / 2 ^ d ∨ rneShift n d = n / 2 ^ d + 1)) := by
  simp only [rneShift, Nat.shiftRight_eq_div_pow]
  split <;> omega

theorem roundMagUnbounded_isNearestMag (k n : Nat) :
    IsNearestMag n (2 ^ k) (roundMagUnbounded k n) := by
  obtain ⟨hlt, hnorm⟩ := keptBits_significand k n
  have hround := rneShift_cases n (droppedBits k n)
  have hkd : 2 ^ (droppedBits k n - k) * 2 ^ k = 2 ^ droppedBits k n := by
    rw [← pow_add, Nat.sub_add_cancel (le_droppedBits k n)]
  rw [roundMagUnbounded]
  generalize droppedBits k n = d at *
  have hn : 2 ^ d * (n / 2 ^ d) + n % 2 ^ d = n := Nat.div_add_mod n (2 ^ d)
  have hr : n % 2 ^ d < 2 ^ d := Nat.mod_lt _ (Nat.two_pow_pos d)
  have hlo : magUnits ((d - k) * 2 ^ 52 + n / 2 ^ d) * 2 ^ k = 2 ^ d * (n / 2 ^ d) := by
    rw [magUnits_significand hlt.le hnorm, mul_assoc, hkd, mul_comm]
  have hhi : magUnits ((d - k) * 2 ^ 52 + n / 2 ^ d + 1) * 2 ^ k =
      2 ^ d * (n / 2 ^ d) + 2 ^ d := by
    rw [add_assoc, magUnits_significand (q := n / 2 ^ d + 1) hlt (by omega), mul_assoc, hkd, mul_comm,
      mul_add_one]
  have hloError : magError n (2 ^ k) ((d - k) * 2 ^ 52 + n / 2 ^ d) = n % 2 ^ d := by
    rw [magError, hlo]; omega
  have hhiError : magError n (2 ^ k) ((d - k) * 2 ^ 52 + n / 2 ^ d + 1) = 2 ^ d - n % 2 ^ d := by
    rw [magError, hhi]; omega
  refine isNearestMag_of_neighbours (lo := (d - k) * 2 ^ 52 + n / 2 ^ d) (by omega) (by omega) ?_
    (by omega)
  obtain hq | hq : rneShift n d = n / 2 ^ d + 1 ∨ rneShift n d = n / 2 ^ d := by omega
  · exact .inl ⟨by omega, by rw [hq, ← add_assoc]; omega⟩
  · exact .inr ⟨by omega, by rw [hq]; omega⟩

/-- Unbounded rounding reaches the magnitude of ±∞ exactly from the overflow threshold on: a tie there
goes up, as the largest finite significand is odd. -/
theorem infMag_le_roundMagUnbounded_iff (k n : Nat) :
    infMag ≤ roundMagUnbounded k n ↔ overflowUnits * 2 ^ k ≤ n := by
  have hnear := roundMagUnbounded_isNearestMag k n
  have hhalf : 2 * (overflowUnits * 2 ^ k) =
      magUnits (infMag - 1) * 2 ^ k + magUnits infMag * 2 ^ k := by
    rw [← mul_assoc, two_mul_overflowUnits, add_mul]
  have hmono : ∀ {m₁ m₂}, m₁ < m₂ → magUnits m₁ * 2 ^ k < magUnits m₂ * 2 ^ k := fun h =>
    Nat.mul_lt_mul_of_pos_right (magUnits_strictMono h) (Nat.two_pow_pos k)
  have hgap := hmono (show infMag - 1 < infMag by decide)
  obtain ⟨hmax, -⟩ := hnear (infMag - 1)
  obtain ⟨hinf, hinfTie⟩ := hnear infMag
  simp only [magError] at hmax hinf hinfTie
  constructor
  · intro hm
    obtain hm | hm := hm.eq_or_lt
    · rw [← hm] at hmax
      omega
    · have := hmono hm
      omega
  · intro hn
    by_contra hm
    obtain hm | hm : roundMagUnbounded k n = infMag - 1 ∨ roundMagUnbounded k n < infMag - 1 := by
      omega
    · rw [hm] at hinf hinfTie
      exact absurd (hinfTie (by omega) (magUnits_strictMono (by decide)).ne) (by decide)
    · have := hmono hm
      omega

theorem roundMag_of_overflow {k n : Nat} (h : overflowUnits * 2 ^ k ≤ n) :
    roundMag k n = infMag :=
  (roundMag_eq_min k n).trans (min_eq_right ((infMag_le_roundMagUnbounded_iff k n).2 h))

theorem roundMag_of_lt_overflow {k n : Nat} (h : n < overflowUnits * 2 ^ k) :
    roundMag k n < infMag ∧ IsNearestMag n (2 ^ k) (roundMag k n) := by
  have hlt : roundMagUnbounded k n < infMag := by
    rw [← not_le, infMag_le_roundMagUnbounded_iff]
    omega
  rw [roundMag_eq_min, min_eq_left hlt.le]
  exact ⟨hlt, roundMagUnbounded_isNearestMag k n⟩

theorem roundMag_lt (k n : Nat) : roundMag k n < 2 ^ 63 :=
  (min_le_right _ _).trans_lt infMag_lt

/-! ### Rounded patterns -/

theorem isInf_ofSignMag_roundMag (s : Bool) {k n : Nat} (h : overflowUnits * 2 ^ k ≤ n) :
    isInf (ofSignMag s (roundMag k n)) = true := by
  rw [isInf, mag_ofSignMag s (roundMag_lt k n), roundMag_of_overflow h, decide_eq_true rfl]

theorem isFinite_ofSignMag_roundMag (s : Bool) {k n : Nat} (h : n < overflowUnits * 2 ^ k) :
    isFinite (ofSignMag s (roundMag k n)) = true := by
  rw [isFinite, mag_ofSignMag s (roundMag_lt k n), decide_eq_true (roundMag_of_lt_overflow h).1]

theorem value_mul_cast (x : F64) (scale : Nat) :
    value x * scale = if sign x then -((magUnits (mag x) * scale : Nat) : Int)
      else (magUnits (mag x) * scale : Nat) := by
  rw [value, units_eq_magUnits]
  split <;> push_cast <;> ring

/-- A nearest magnitude under the exact value's sign is a nearest value: a value of the other sign is
no nearer than zero. -/
theorem isNearestEven_ofSignMag (s : Bool) {n scale m : Nat} (hscale : 0 < scale)
    (hm : m < 2 ^ 63) (h : IsNearestMag n scale m) :
    IsNearestEven (ofSignMag s m) (if s then -(n : Int) else n) scale := by
  intro z _
  obtain ⟨hz, hzTie⟩ := h (mag z)
  obtain ⟨hzero, hzeroTie⟩ := h 0
  have hzUnits : magUnits (mag z) * scale = 0 → magUnits (mag z) = 0 := fun h =>
    (Nat.mul_eq_zero.1 h).resolve_right hscale.ne'
  simp only [magError, magUnits_zero, Nat.zero_mul] at hz hzTie hzero hzeroTie
  simp only [value_mul_cast, Int.abs_eq_natAbs, sign_ofSignMag s hm, mag_ofSignMag s hm]
  rw [value_ofSignMag s hm, value, units_eq_magUnits]
  generalize magUnits (mag z) * scale = zUnits at *
  generalize magUnits m * scale = mUnits at *
  cases s <;> cases sign z <;> simp only [if_true, if_false, Bool.false_eq_true] <;> omega

theorem isNearestEven_ofSignMag_roundMag (s : Bool) {k n : Nat} (h : n < overflowUnits * 2 ^ k) :
    IsNearestEven (ofSignMag s (roundMag k n)) (if s then -(n : Int) else n) (2 ^ k) :=
  isNearestEven_ofSignMag s (Nat.two_pow_pos k) (roundMag_lt k n) (roundMag_of_lt_overflow h).2

theorem sign_ofSignMag_roundMag (s : Bool) (k n : Nat) : sign (ofSignMag s (roundMag k n)) = s :=
  sign_ofSignMag s (roundMag_lt k n)

end Sys2Proof.Fp
end

section
/-! The arithmetic of spec/00_scope.md R11, operation by operation: finite operands, then NaNs and
infinities. -/

namespace Sys2Proof.Fp

open Sys2Proof.Machine (overflowUnits IsNearestEven)

theorem not_isNaN_of_isFinite {x : F64} (h : isFinite x = true) : isNaN x = false := by
  simp only [isFinite, isNaN, decide_eq_true_eq, decide_eq_false_iff_not] at *
  omega

theorem not_isInf_of_isFinite {x : F64} (h : isFinite x = true) : isInf x = false := by
  simp only [isFinite, isInf, decide_eq_true_eq, decide_eq_false_iff_not] at *
  omega

theorem not_isNaN_of_isInf {x : F64} (h : isInf x = true) : isNaN x = false := by
  simp only [isInf, isNaN, decide_eq_true_eq, decide_eq_false_iff_not] at *
  omega

theorem not_isZero_of_isInf {x : F64} (h : isInf x = true) : isZero x = false := by
  simp only [isInf, isZero, decide_eq_true_eq, decide_eq_false_iff_not] at *
  rw [h]
  decide

/-! ### Finite operands -/

theorem fadd_of_finite {x y : F64} (hx : isFinite x = true) (hy : isFinite y = true) :
    fadd x y = if value x + value y = 0 then ofSignMag (sign x && sign y) 0
      else ofSignMag (decide (value x + value y < 0)) (roundMag 0 (value x + value y).natAbs) := by
  simp [fadd, not_isNaN_of_isFinite, not_isInf_of_isFinite, hx, hy]

/-- Zero sums included: a sum is its own magnitude under some sign, rounded. -/
theorem fadd_of_finite_eq_round {x y : F64} (hx : isFinite x = true) (hy : isFinite y = true) :
    ∃ s : Bool, fadd x y = ofSignMag s (roundMag 0 (value x + value y).natAbs) ∧
      value x + value y =
        if s then -((value x + value y).natAbs : Int) else ((value x + value y).natAbs : Int) := by
  rw [fadd_of_finite hx hy]
  split
  case isTrue h0 => exact ⟨sign x && sign y, by rw [h0]; rfl, by simp [h0]⟩
  case isFalse h0 =>
    refine ⟨_, rfl, ?_⟩
    split <;> simp only [decide_eq_true_eq] at * <;> omega

theorem fmul_of_finite {x y : F64} (hx : isFinite x = true) (hy : isFinite y = true) :
    fmul x y = ofSignMag (sign x ^^ sign y) (roundMag 1074 (units x * units y)) := by
  simp [fmul, not_isNaN_of_isFinite, not_isInf_of_isFinite, hx, hy]

theorem value_mul_value (x y : F64) :
    value x * value y =
      if sign x ^^ sign y then -((units x * units y : Nat) : Int)
      else (units x * units y : Nat) := by
  cases hx : sign x <;> cases hy : sign y <;> simp [value, hx, hy]

theorem natAbs_value_mul_value (x y : F64) : (value x * value y).natAbs = units x * units y := by
  rw [Int.natAbs_mul, natAbs_value, natAbs_value]

theorem fhalf_of_finite {x : F64} (hx : isFinite x = true) :
    fhalf x = ofSignMag (sign x) (roundMag 1 (units x)) := by
  simp [fhalf, not_isNaN_of_isFinite, not_isInf_of_isFinite, hx]

/-- Halving a finite value never overflows. -/
theorem units_lt_overflowUnits_mul_two {x : F64} (hx : isFinite x = true) :
    units x < overflowUnits * 2 ^ 1 := by
  have hmax : units x ≤ magUnits (infMag - 1) :=
    magUnits_strictMono.monotone (Nat.le_sub_one_of_lt (of_decide_eq_true hx))
  have hgap : magUnits (infMag - 1) < magUnits infMag := magUnits_strictMono (by decide)
  have := two_mul_overflowUnits
  omega

theorem sign_fhalf {x : F64} (hx : isFinite x = true) : sign (fhalf x) = sign x := by
  rw [fhalf_of_finite hx, sign_ofSignMag_roundMag]

theorem isFinite_fhalf {x : F64} (hx : isFinite x = true) : isFinite (fhalf x) = true := by
  rw [fhalf_of_finite hx]
  exact isFinite_ofSignMag_roundMag (sign x) (units_lt_overflowUnits_mul_two hx)

theorem fhalf_isNearestEven {x : F64} (hx : isFinite x = true) :
    IsNearestEven (fhalf x) (value x) 2 := by
  rw [fhalf_of_finite hx]
  exact isNearestEven_ofSignMag_roundMag (sign x) (units_lt_overflowUnits_mul_two hx)

/-- From exponent field 2 on, the pattern with the exponent field one less is a half of `x`. -/
theorem exists_exact_half {x : F64} (hx : isFinite x = true) (h : 2 ^ 53 ≤ mag x) :
    ∃ z, isFinite z = true ∧ 2 * value z = value x := by
  have hlt : mag x < infMag := of_decide_eq_true hx
  have hm : mag x - 2 ^ 52 < 2 ^ 63 := (Nat.sub_le _ _).trans_lt (hlt.trans infMag_lt)
  refine ⟨ofSignMag (sign x) (mag x - 2 ^ 52), ?_, ?_⟩
  · rw [isFinite, mag_ofSignMag _ hm, decide_eq_true_eq]
    omega
  · have hdouble := magUnits_add_binade (m := mag x - 2 ^ 52) (by omega)
    rw [Nat.sub_add_cancel (by omega)] at hdouble
    rw [value_ofSignMag _ hm, value, units_eq_magUnits, hdouble]
    split <;> push_cast <;> ring

theorem fhalf_exact {x : F64} (hx : isFinite x = true) (h : 2 ^ 53 ≤ mag x) :
    2 * value (fhalf x) = value x := by
  obtain ⟨z, hz, hhalf⟩ := exists_exact_half hx h
  obtain ⟨hle, -⟩ := fhalf_isNearestEven hx z hz
  have hzero : value z * (2 : Nat) - value x = 0 := by push_cast; omega
  rw [hzero, abs_zero, abs_nonpos_iff] at hle
  push_cast at hle
  omega

/-! ### NaNs and infinities -/

theorem isNaN_fadd_of_isNaN {x y : F64} (h : isNaN x = true ∨ isNaN y = true) :
    isNaN (fadd x y) = true := by
  rw [fadd, if_pos (by simpa using h), isNaN_freeNaN]

theorem isNaN_fmul_of_isNaN {x y : F64} (h : isNaN x = true ∨ isNaN y = true) :
    isNaN (fmul x y) = true := by
  rw [fmul, if_pos (by simpa using h), isNaN_freeNaN]

theorem isNaN_fhalf_of_isNaN {x : F64} (h : isNaN x = true) : isNaN (fhalf x) = true := by
  rw [fhalf, if_pos h, isNaN_freeNaN]

theorem isNaN_fadd_of_opposite_inf {x y : F64} (hx : isInf x = true) (hy : isInf y = true)
    (hs : sign x ≠ sign y) : isNaN (fadd x y) = true := by
  simp [fadd, not_isNaN_of_isInf, hx, hy, hs]

/-- An infinity absorbs a finite addend and its own like, on either side. -/
theorem fadd_of_isInf {x y : F64} (hx : isInf x = true) (hy : isFinite y = true ∨ y = x) :
    fadd x y = x ∧ fadd y x = x := by
  obtain hy | rfl := hy
  · simp [fadd, not_isNaN_of_isInf hx, not_isNaN_of_isFinite hy, not_isInf_of_isFinite hy, hx]
  · simp [fadd, not_isNaN_of_isInf hx, hx]

theorem isNaN_fmul_inf_zero {x y : F64} (hx : isInf x = true) (hy : isZero y = true) :
    isNaN (fmul x y) = true ∧ isNaN (fmul y x) = true := by
  constructor <;> simp [fmul, hx, hy]

theorem fmul_inf_nonzero {x y : F64} (hx : isInf x = true) (hn : isNaN y = false)
    (hy : isZero y = false) :
    fmul x y = (if sign x ^^ sign y then negInf else posInf) ∧
    fmul y x = (if sign x ^^ sign y then negInf else posInf) := by
  rw [← ofSignMag_infMag]
  simp [fmul, not_isNaN_of_isInf, not_isZero_of_isInf, hx, hn, hy, Bool.xor_comm]

theorem fhalf_of_isInf {x : F64} (hx : isInf x = true) : fhalf x = x := by
  simp [fhalf, not_isNaN_of_isInf, hx]

/-! ### The hard decision -/

theorem isNaN_eq_fields (x : F64) :
    isNaN x = (x.extractLsb' 52 11 == 0x7FF && x.extractLsb' 0 52 != 0) := by
  rw [Bool.eq_iff_iff, isNaN, decide_eq_true_eq]
  simp only [mag, infMag, Bool.and_eq_true, beq_iff_eq, bne_iff_ne, ne_eq, ← BitVec.toNat_inj,
    BitVec.extractLsb'_toNat, Nat.shiftRight_eq_div_pow, BitVec.ofNat_eq_ofNat, BitVec.reduceToNat]
  have hlt := x.isLt
  omega

/-- A non-NaN value is at most zero exactly if it is +0.0 or its sign bit is set. -/
theorem hard_eq_sign_or_zero (x : F64) :
    hard x = (!isNaN x && (x == posZero || sign x)) := by
  have hkey : key x ≤ key posZero ↔ x = posZero ∨ sign x = true := by
    rw [← BitVec.toNat_inj, toNat_eq_mag_add_sign, show key posZero = 0 by decide,
      show posZero.toNat = 0 by decide, key]
    cases sign x <;> simp
  rw [Bool.eq_iff_iff, hard, le0, le_iff, hkey]
  simp [show isNaN posZero = false by decide]

end Sys2Proof.Fp
end

section
/-! The floating-point obligations, O32 to O35. -/

namespace Sys2Proof

open Sys2Proof.Machine

/-- Settles O32, from the place of the zeros in the IEEE order and the fields of a NaN. -/
theorem hardDecisionOfSpecialValues : Obligations.HardDecisionOfSpecialValues := by
  refine ⟨Fp.hard_eq_sign_or_zero, Fp.isNaN_eq_fields, ?_⟩
  decide

/-- Settles O33: the exact sum is rounded once, by `roundMag`. -/
theorem faddRoundsToNearestEven : Obligations.FaddRoundsToNearestEven := by
  intro x y hx hy sum
  obtain ⟨s, hround, hsum⟩ := Fp.fadd_of_finite_eq_round hx hy
  refine ⟨fun h0 => ?_, fun h0 => ?_, fun hover => ?_, fun hlt => ?_⟩
  · rw [Fp.fadd_of_finite hx hy, if_pos h0, Fp.ofSignMag_zero]
  · rw [Fp.fadd_of_finite hx hy, if_neg h0, Fp.sign_ofSignMag_roundMag]
  · rw [hround]
    exact Fp.isInf_ofSignMag_roundMag s (by simpa using hover)
  · have hlt' : sum.natAbs < overflowUnits * 2 ^ 0 := by simpa using hlt
    have hnear := Fp.isNearestEven_ofSignMag_roundMag s hlt'
    rw [← hsum, ← hround] at hnear
    exact ⟨hround ▸ Fp.isFinite_ofSignMag_roundMag s hlt', hnear⟩

/-- Settles O34: the exact product, in units of 2^−2148, is rounded once, by `roundMag`. -/
theorem fmulRoundsToNearestEven : Obligations.FmulRoundsToNearestEven := by
  intro x y hx hy product
  have habs : product.natAbs = Fp.units x * Fp.units y := Fp.natAbs_value_mul_value x y
  rw [Fp.fmul_of_finite hx hy, habs]
  refine ⟨Fp.sign_ofSignMag_roundMag _ _ _, Fp.isInf_ofSignMag_roundMag _, fun hlt => ?_⟩
  refine ⟨Fp.isFinite_ofSignMag_roundMag _ hlt, ?_⟩
  rw [show product = _ from Fp.value_mul_value x y]
  exact Fp.isNearestEven_ofSignMag_roundMag _ hlt

/-- Settles O35, clause by clause from the rules for special operands and the rounding of `fhalf`. -/
theorem fpSpecialOperands : Obligations.FpSpecialOperands :=
  ⟨fun _ _ h => ⟨Fp.isNaN_fadd_of_isNaN h, Fp.isNaN_fmul_of_isNaN h⟩,
    fun _ => Fp.isNaN_fhalf_of_isNaN,
    Fp.isNaN_fadd_of_opposite_inf (by decide) (by decide) (by decide),
    Fp.isNaN_fadd_of_opposite_inf (by decide) (by decide) (by decide),
    fun _ _ => Fp.fadd_of_isInf,
    fun _ _ hx hn => ⟨Fp.isNaN_fmul_inf_zero hx, Fp.fmul_inf_nonzero hx hn⟩,
    fun _ => Fp.fhalf_of_isInf,
    fun _ hx => ⟨Fp.sign_fhalf hx, Fp.isFinite_fhalf hx, Fp.fhalf_isNearestEven hx,
      Fp.fhalf_exact hx⟩⟩

end Sys2Proof
end

section
/-! The connectivity indices of spec/40_code_structure.md R105 and R106 list the ones of H. -/

namespace Sys2Proof.Machine

@[simp] theorem mem_insertAsc {x y : Nat} {L : List Nat} : x ∈ insertAsc y L ↔ x = y ∨ x ∈ L := by
  induction L with
  | nil => simp [insertAsc]
  | cons z zs ih =>
    rw [insertAsc]
    split
    · simp
    · simp [ih, or_left_comm]

@[simp] theorem mem_sortAsc {x : Nat} {L : List Nat} : x ∈ sortAsc L ↔ x ∈ L := by
  induction L with
  | nil => simp [sortAsc]
  | cons y ys ih => rw [sortAsc, List.foldr_cons, mem_insertAsc, ← sortAsc, ih, List.mem_cons]

theorem mem_rowEdges {i x : Nat} : x ∈ rowEdges i ↔
    ∃ q < 8, ∃ k ∈ (blockAt (i / 32) q).shifts, 32 * q + (i % 32 + k) % 32 = x := by
  simp [rowEdges]

theorem mem_colEdges {a x : Nat} : x ∈ colEdges a ↔
    ∃ p < 4, ∃ k ∈ (blockAt p (a / 32)).shifts, 32 * p + (a % 32 + (32 - k)) % 32 = x := by
  simp [colEdges]

theorem hBit_iff {i : Row} {a : Col} : hBit i a = true ↔
    ∃ k ∈ (blockAt (i.val / 32) (a.val / 32)).shifts, a.val % 32 = (i.val % 32 + k) % 32 := by
  simp [hBit]

theorem shift_lt {p q k : Nat} (hp : p < 4) (hq : q < 8) (hk : k ∈ (blockAt p q).shifts) : k < 32 :=
  (by decide : ∀ p < 4, ∀ q < 8, ∀ k ∈ (blockAt p q).shifts, k < 32) p hp q hq k hk

/-- A list of indices below `n`, read as positions, has the same members. -/
theorem mem_map_ofNat {n : Nat} [NeZero n] {L : List Nat} (hL : ∀ x ∈ L, x < n) {a : Fin n} :
    a ∈ L.map (Fin.ofNat n) ↔ a.val ∈ L := by
  rw [List.mem_map]
  constructor
  · rintro ⟨x, hx, rfl⟩
    simpa [Nat.mod_eq_of_lt (hL x hx)] using hx
  · exact fun ha => ⟨a.val, ha, by simp⟩

theorem mem_connsRow {i : Row} {a : Col} : a ∈ connsRow i ↔ hBit i a = true := by
  have hlt : ∀ x ∈ sortAsc (rowEdges i.val), x < 256 := by
    intro x hx
    obtain ⟨q, hq, k, -, rfl⟩ := mem_rowEdges.1 (mem_sortAsc.1 hx)
    omega
  rw [connsRow, mem_map_ofNat hlt, mem_sortAsc, mem_rowEdges, hBit_iff]
  constructor
  · rintro ⟨q, -, k, hk, ha⟩
    obtain rfl : q = a.val / 32 := by omega
    exact ⟨k, hk, by omega⟩
  · rintro ⟨k, hk, ha⟩
    exact ⟨a.val / 32, by omega, k, hk, by omega⟩

theorem mem_connsCol {a : Col} {i : Row} : i ∈ connsCol a ↔ hBit i a = true := by
  have hlt : ∀ x ∈ sortAsc (colEdges a.val), x < 128 := by
    intro x hx
    obtain ⟨p, hp, k, -, rfl⟩ := mem_colEdges.1 (mem_sortAsc.1 hx)
    omega
  rw [connsCol, mem_map_ofNat hlt, mem_sortAsc, mem_colEdges, hBit_iff]
  constructor
  · rintro ⟨p, hp, k, hk, hi⟩
    have hk32 := shift_lt hp (by omega) hk
    obtain rfl : p = i.val / 32 := by omega
    exact ⟨k, hk, by omega⟩
  · rintro ⟨k, hk, hi⟩
    have hk32 := shift_lt (by omega) (by omega) hk
    exact ⟨i.val / 32, by omega, k, hk, by omega⟩

end Sys2Proof.Machine
end

section
/-! What a step of the engine can do (spec/42_decoder.md R152 to R157), and what a step of the
machine can be. -/

namespace Sys2Proof.Machine

theorem exec_init_eq (s : State) :
    ∃ r v, (∀ i a, hBit i a = false → (v.get a).get i = Fp.posZero) ∧
      exec .init s = .next { s with
        r := r, u := tabulate fun _ => tabulate fun _ => Fp.posZero, v := v
        phase := .conv, draws := s.draws + 1 } :=
  ⟨_, _, fun i a h => by simp [h], rfl⟩

theorem exec_cnu_eq (s : State) :
    ∃ u, (∀ i a, hBit i a = false → (u.get i).get a = (s.u.get i).get a) ∧
      exec .cnu s = .next { s with u := u, phase := .vnu } :=
  ⟨_, fun i a h => by simp [mem_connsRow, h], rfl⟩

theorem exec_vnu_eq (s : State) :
    ∃ v, (∀ i a, hBit i a = false → (v.get a).get i = (s.v.get a).get i) ∧
      exec .vnu s = .next { s with v := v, phase := .marg, draws := s.draws + 1 } :=
  ⟨_, fun i a h => by simp [mem_connsCol, h], rfl⟩

theorem exec_marg_eq (s : State) :
    ∃ r, exec .marg s = .next { s with
      r := r, t := s.t + 1, phase := .conv, draws := s.draws + 1 } :=
  ⟨_, rfl⟩

/-- Exhaustion ends a decode before the convergence test is made (R153). -/
theorem exec_conv_exhausted {s : State} (h : s.t = s.cap.toNat) :
    exec .conv s = .next (s.finish .notDecoded) := if_pos h

theorem exec_conv_decoded {s : State} (h : s.t ≠ s.cap.toNat) (hc : isCodeword s.r = true) :
    exec .conv s = .next ((s.setMsg (packMessage packBits s.r)).finish .decoded) :=
  (if_neg h).trans (if_pos hc)

theorem exec_conv_continues {s : State} (h : s.t ≠ s.cap.toNat) (hc : isCodeword s.r = false) :
    exec .conv s = .next { s with phase := .cnu } :=
  (if_neg h).trans (if_neg (by simp [hc]))

/-- Everything the engine's step can do, phase by phase. -/
theorem engine_cases {i : Instr} {s t : State} (hi : enginePhase s.phase = some i)
    (h : exec i s = .next t) :
    (s.phase = .init ∧ ∃ r v, (∀ i a, hBit i a = false → (v.get a).get i = Fp.posZero) ∧
      t = { s with
        r := r, u := tabulate fun _ => tabulate fun _ => Fp.posZero, v := v
        phase := .conv, draws := s.draws + 1 }) ∨
    (s.phase = .conv ∧ s.t = s.cap.toNat ∧ t = s.finish .notDecoded) ∨
    (s.phase = .conv ∧ s.t ≠ s.cap.toNat ∧ isCodeword s.r = true ∧
      t = (s.setMsg (packMessage packBits s.r)).finish .decoded) ∨
    (s.phase = .conv ∧ s.t ≠ s.cap.toNat ∧ isCodeword s.r = false ∧ t = { s with phase := .cnu }) ∨
    (s.phase = .cnu ∧ ∃ u, (∀ i a, hBit i a = false → (u.get i).get a = (s.u.get i).get a) ∧
      t = { s with u := u, phase := .vnu }) ∨
    (s.phase = .vnu ∧ ∃ v, (∀ i a, hBit i a = false → (v.get a).get i = (s.v.get a).get i) ∧
      t = { s with v := v, phase := .marg, draws := s.draws + 1 }) ∨
    (s.phase = .marg ∧ ∃ r,
      t = { s with r := r, t := s.t + 1, phase := .conv, draws := s.draws + 1 }) := by
  cases hp : s.phase <;> rw [hp] at hi <;> cases hi
  case init =>
    obtain ⟨r, v, hv, e⟩ := exec_init_eq s
    rw [e] at h; cases h
    exact .inl ⟨rfl, r, v, hv, rfl⟩
  case conv =>
    by_cases hcap : s.t = s.cap.toNat
    · rw [exec_conv_exhausted hcap] at h; cases h
      exact .inr (.inl ⟨rfl, hcap, rfl⟩)
    cases hc : isCodeword s.r with
    | true =>
      rw [exec_conv_decoded hcap hc] at h; cases h
      exact .inr (.inr (.inl ⟨rfl, hcap, rfl, rfl⟩))
    | false =>
      rw [exec_conv_continues hcap hc] at h; cases h
      exact .inr (.inr (.inr (.inl ⟨rfl, hcap, rfl, rfl⟩)))
  case cnu =>
    obtain ⟨u, hu, e⟩ := exec_cnu_eq s
    rw [e] at h; cases h
    exact .inr (.inr (.inr (.inr (.inl ⟨rfl, u, hu, rfl⟩))))
  case vnu =>
    obtain ⟨v, hv, e⟩ := exec_vnu_eq s
    rw [e] at h; cases h
    exact .inr (.inr (.inr (.inr (.inr (.inl ⟨rfl, v, hv, rfl⟩)))))
  case marg =>
    obtain ⟨r, e⟩ := exec_marg_eq s
    rw [e] at h; cases h
    exact .inr (.inr (.inr (.inr (.inr (.inr ⟨rfl, r, rfl⟩)))))

/-- A step that goes on is a reset, a host access, the idle engine's turn, or an engine step. -/
theorem step_next_cases {s t : State} (h : step s = .next t) :
    (s.nextIsReset = true ∧ ∃ rest, t = ({ s with inputs := rest } : State).resetStep) ∨
    (∃ acc rest, s.inputs = .access acc :: rest ∧
      exec (decodeAccess acc) { s with inputs := rest, bus := .accepted } = .next t) ∨
    (s.engineMoves = true ∧ s.phase = .idle ∧ ∃ rest, t = { s with inputs := rest }) ∨
    (s.engineMoves = true ∧ ∃ i rest,
      enginePhase s.phase = some i ∧ exec i { s with inputs := rest } = .next t) := by
  obtain ⟨rest, hin, e⟩ | ⟨acc, rest, hin, e⟩ | ⟨hm, rest, -, ⟨hp, e⟩ | ⟨i, hi, e⟩⟩ :=
    step_cases s <;> rw [e] at h
  · cases h
    exact .inl ⟨by simp [State.nextIsReset, hin], rest, rfl⟩
  · exact .inr (.inl ⟨acc, rest, hin, h⟩)
  · cases h
    exact .inr (.inr (.inl ⟨hm, hp, rest, rfl⟩))
  · exact .inr (.inr (.inr ⟨hm, i, rest, hi, h⟩))

theorem nextCommand_of_inputs {s : State} {w : Word} {rest : List Input}
    (h : s.inputs = .access (.write 32 0x08 w) :: rest) : s.nextCommand = some w := by
  simp [State.nextCommand, h]

/-- With nothing pending the engine steps (log 5). -/
theorem step_of_enginePhase {s : State} {i : Instr} (hin : s.inputs = [])
    (hi : enginePhase s.phase = some i) : step s = exec i s := by
  rw [step, fetch_nil hin, hi]

theorem step_init {s : State} (hin : s.inputs = []) (hp : s.phase = .init) :
    ∃ t, step s = .next t ∧ t.phase = .conv ∧ t.inputs = [] ∧ t.t = s.t ∧ t.cap = s.cap ∧
      t.msg = s.msg := by
  obtain ⟨r, v, -, e⟩ := exec_init_eq s
  rw [step_of_enginePhase hin (by rw [hp, enginePhase_init]), e]
  exact ⟨_, rfl, rfl, hin, rfl, rfl, rfl⟩

theorem step_conv_exhausted {s : State} (hin : s.inputs = []) (hp : s.phase = .conv)
    (h : s.t = s.cap.toNat) : step s = .next (s.finish .notDecoded) :=
  (step_of_enginePhase hin (by rw [hp, enginePhase_conv])).trans (exec_conv_exhausted h)

theorem runSteps_succ {s t : State} (h : step s = .next t) (n : Nat) :
    runSteps (n + 1) s = runSteps n t := by
  simp only [runSteps, Host.Core.run, core, h]

end Sys2Proof.Machine
end

section
/-! The invariant of the machine, kept by each kind of step (spec/10_state.md R25;
spec/42_decoder.md R153; spec/70_reset_and_hazards.md R262). -/

namespace Sys2Proof.Machine

/-- With no decode running the invariant says little: `t` shows in full, and `DONE` and `CHK` come
with what they speak of. -/
theorem State.Inv.of_idle {s : State} (hp : s.phase = .idle) (ht : s.t < 65536)
    (hd : s.done = true → s.result ≠ .none) (hc : s.chk = true → s.chkValid = true) : s.Inv where
  running_shows_nothing hb := absurd hp ((busy_iff s).1 hb)
  t_le_cap hb := absurd hp ((busy_iff s).1 hb)
  update_below_cap h := by simp [hp] at h
  init_t_zero h := by simp [hp] at h
  t_visible := ht
  done_has_result := hd
  chk_is_valid := hc
  u_zero_off_edges h := absurd hp h
  v_zero_off_edges h := absurd hp h

/-- The model's own fields are no part of the invariant. -/
theorem State.Inv.setInputs {s : State} (hs : s.Inv) (rest : List Input) (b : BusResponse) :
    ({ s with inputs := rest, bus := b } : State).Inv := { hs with }

theorem State.Inv.resetStep (s : State) : s.resetStep.Inv :=
  .of_idle rfl (by simp) (by simp) (by simp)

theorem State.Inv.runCommand {w : Word} {s t : State} (hs : s.Inv)
    (h : runCommand w s = .next t) : t.Inv := by
  obtain rfl | ⟨e, rfl⟩ | ⟨hi, lo, d, rfl⟩ | ⟨-, -, a, x, rfl⟩ | ⟨-, -, rfl⟩ | ⟨-, c, rfl⟩ |
    ⟨-, hidle, out, rfl⟩ | ⟨-, rfl⟩ := runCommand_cases h
  -- `NOP`, a rejected command, a read into `DATA`, and `LLR_WR`
  · exact hs
  · exact { hs with }
  · exact { hs with }
  · exact { hs with }
  -- `DECODE`
  · exact { hs with
      running_shows_nothing := fun _ => ⟨rfl, rfl, get_tabulate _⟩
      t_le_cap := fun _ => Nat.zero_le _
      update_below_cap := by simp
      init_t_zero := fun _ => rfl
      t_visible := by simp
      done_has_result := by simp
      u_zero_off_edges := by simp
      v_zero_off_edges := by simp }
  -- `CHECK`
  · exact { hs with chk_is_valid := fun _ => rfl }
  -- `PACK`
  · exact .of_idle ((not_busy_iff s).1 hidle) hs.t_visible hs.done_has_result hs.chk_is_valid
  -- `CLEAR`
  · exact { hs with
      running_shows_nothing := fun hb => ⟨rfl, (hs.running_shows_nothing hb).2⟩
      done_has_result := by simp
      chk_is_valid := by simp }

theorem State.Inv.access {acc : BusAccess} {s t : State} (hs : s.Inv)
    (h : exec (decodeAccess acc) s = .next t) : t.Inv := by
  obtain ⟨b, rfl⟩ | ⟨b, rfl⟩ | ⟨hidle, c, rfl⟩ | ⟨e, rfl⟩ | ⟨hi, lo, d, rfl⟩ | ⟨w, -, hw⟩ :=
    access_cases h
  · exact { hs with }
  · exact { hs with }
  · exact .of_idle ((not_busy_iff s).1 hidle) hs.t_visible hs.done_has_result hs.chk_is_valid
  · exact { hs with }
  · exact { hs with }
  · exact hs.runCommand hw

/-- A running decode moves on: the next phase comes with its bound on `t`, and the messages stay
zero off the edges. -/
theorem State.Inv.advance {s : State} (hs : s.Inv) (hb : s.busy = true) {p : Phase} {n d : Nat}
    {r : Vector F64 256} {u : Vector (Vector F64 256) 128} {v : Vector (Vector F64 128) 256}
    (hp : p ≠ .init) (hn : n ≤ s.cap.toNat) (hlt : p ≠ .conv → n < s.cap.toNat)
    (hu : ∀ i a, hBit i a = false → (u.get i).get a = Fp.posZero)
    (hv : ∀ i a, hBit i a = false → (v.get a).get i = Fp.posZero) :
    ({ s with r := r, u := u, v := v, phase := p, t := n, draws := d } : State).Inv where
  running_shows_nothing _ := hs.running_shows_nothing hb
  t_le_cap _ := hn
  update_below_cap h := hlt (by rintro rfl; simp at h)
  init_t_zero h := absurd h hp
  t_visible := hn.trans_lt s.cap.isLt
  done_has_result := hs.done_has_result
  chk_is_valid := hs.chk_is_valid
  u_zero_off_edges _ _ := hu
  v_zero_off_edges _ _ := hv

theorem State.Inv.engine {i : Instr} {s t : State} (hs : s.Inv)
    (hi : enginePhase s.phase = some i) (h : exec i s = .next t) : t.Inv := by
  have hidle : s.phase ≠ .idle := fun hp => by simp [hp] at hi
  have hb : s.busy = true := (busy_iff s).2 hidle
  have hcap : s.t ≤ s.cap.toNat := hs.t_le_cap hb
  have hlt := hs.update_below_cap
  have hu := hs.u_zero_off_edges hidle
  have hv := hs.v_zero_off_edges hidle
  obtain ⟨-, r, v, hv', rfl⟩ | ⟨-, -, rfl⟩ | ⟨-, -, -, rfl⟩ | ⟨hp, ht, -, rfl⟩ | ⟨hp, u, hu', rfl⟩ |
    ⟨hp, v, hv', rfl⟩ | ⟨hp, r, rfl⟩ := engine_cases hi h
  -- `INIT`
  · exact hs.advance hb (by simp) hcap (by simp) (fun i a _ => by simp) hv'
  -- `CONV`: exhausted, decoded, or on to an update pass
  · exact .of_idle rfl hs.t_visible (by simp) hs.chk_is_valid
  · exact .of_idle rfl hs.t_visible (by simp) hs.chk_is_valid
  · exact hs.advance hb (by simp) hcap (fun _ => hcap.lt_of_ne ht) (hu (by simp [hp]))
      (hv (by simp [hp]))
  -- `CNU`
  · exact hs.advance hb (by simp) hcap (fun _ => hlt (.inl hp))
      (fun i a he => (hu' i a he).trans (hu (by simp [hp]) i a he)) (hv (by simp [hp]))
  -- `VNU`
  · exact hs.advance hb (by simp) hcap (fun _ => hlt (.inr (.inl hp))) (hu (by simp [hp]))
      (fun i a he => (hv' i a he).trans (hv (by simp [hp]) i a he))
  -- `MARG`
  · exact hs.advance hb (by simp) (hlt (.inr (.inr hp))) (by simp) (hu (by simp [hp]))
      (hv (by simp [hp]))

theorem State.Inv.step {s t : State} (hs : s.Inv) (h : step s = .next t) : t.Inv := by
  obtain ⟨-, rest, rfl⟩ | ⟨acc, rest, -, he⟩ | ⟨-, -, rest, rfl⟩ | ⟨-, i, rest, hi, he⟩ :=
    step_next_cases h
  · exact .resetStep _
  · exact (hs.setInputs rest .accepted).access he
  · exact hs.setInputs rest s.bus
  · exact (hs.setInputs rest s.bus).engine hi he

end Sys2Proof.Machine
end

section
/-! Which steps write `MSG0..3` and `t` (spec/10_state.md R36, R38). -/

namespace Sys2Proof.Machine

/-- Of the host accesses only an accepted `PACK` or `DECODE` writes `MSG0..3`, and only the latter
`t`. -/
theorem access_msg_t {acc : BusAccess} {s t : State} (h : exec (decodeAccess acc) s = .next t) :
    (t.msg = s.msg ∧ t.t = s.t) ∨
    (s.busy = false ∧ acc = .write 32 0x08 0x05000000 ∧ t.t = s.t) ∨
    (s.busy = false ∧ acc = .write 32 0x08 0x03000000 ∧ t.t = 0) := by
  obtain ⟨b, rfl⟩ | ⟨b, rfl⟩ | ⟨-, c, rfl⟩ | ⟨e, rfl⟩ | ⟨hi, lo, d, rfl⟩ | ⟨w, rfl, hw⟩ :=
    access_cases h
  · exact .inl ⟨rfl, rfl⟩
  · exact .inl ⟨rfl, rfl⟩
  · exact .inl ⟨rfl, rfl⟩
  · exact .inl ⟨rfl, rfl⟩
  · exact .inl ⟨rfl, rfl⟩
  obtain rfl | ⟨e, rfl⟩ | ⟨hi, lo, d, rfl⟩ | ⟨-, -, a, x, rfl⟩ | ⟨rfl, hidle, rfl⟩ | ⟨-, c, rfl⟩ |
    ⟨rfl, hidle, out, rfl⟩ | ⟨-, rfl⟩ := runCommand_cases hw
  · exact .inl ⟨rfl, rfl⟩
  · exact .inl ⟨rfl, rfl⟩
  · exact .inl ⟨rfl, rfl⟩
  · exact .inl ⟨rfl, rfl⟩
  · exact .inr (.inr ⟨hidle, rfl, rfl⟩)
  · exact .inl ⟨rfl, rfl⟩
  · exact .inr (.inl ⟨hidle, rfl, rfl⟩)
  · exact .inl ⟨rfl, rfl⟩

/-- The engine writes `MSG0..3` in a `CONV` that decodes, and `t` in `MARG`. -/
theorem engine_msg_t {i : Instr} {s t : State} (hi : enginePhase s.phase = some i)
    (h : exec i s = .next t) :
    (t.msg = s.msg ∧ t.t = s.t) ∨
    (s.phase = .conv ∧ t.result = .decoded ∧ t.t = s.t) ∨
    (s.phase = .marg ∧ t.msg = s.msg ∧ t.t = s.t + 1) := by
  obtain ⟨-, r, v, -, rfl⟩ | ⟨-, -, rfl⟩ | ⟨hp, -, -, rfl⟩ | ⟨-, -, -, rfl⟩ | ⟨-, u, -, rfl⟩ |
    ⟨-, v, -, rfl⟩ | ⟨hp, r, rfl⟩ := engine_cases hi h
  · exact .inl ⟨rfl, rfl⟩
  · exact .inl ⟨rfl, rfl⟩
  · exact .inr (.inl ⟨hp, rfl, rfl⟩)
  · exact .inl ⟨rfl, rfl⟩
  · exact .inl ⟨rfl, rfl⟩
  · exact .inl ⟨rfl, rfl⟩
  · exact .inr (.inr ⟨hp, rfl, rfl⟩)

/-- Every writer of `MSG0..3` and of `t`, over the steps of both agents and the reset. -/
theorem step_msg_t {s t : State} (h : step s = .next t) :
    (t.msg = s.msg ∧ t.t = s.t) ∨
    (s.nextIsReset = true ∧ t.t = 0) ∨
    (s.busy = false ∧ s.nextCommand = some 0x05000000 ∧ t.t = s.t) ∨
    (s.busy = false ∧ s.nextCommand = some 0x03000000 ∧ t.t = 0) ∨
    (s.engineMoves = true ∧ s.phase = .conv ∧ t.result = .decoded ∧ t.t = s.t) ∨
    (s.engineMoves = true ∧ s.phase = .marg ∧ t.msg = s.msg ∧ t.t = s.t + 1) := by
  obtain ⟨hr, rest, rfl⟩ | ⟨acc, rest, hin, he⟩ | ⟨-, -, rest, rfl⟩ | ⟨hm, i, rest, hi, he⟩ :=
    step_next_cases h
  · exact .inr (.inl ⟨hr, rfl⟩)
  · obtain hsame | ⟨hidle, rfl, ht⟩ | ⟨hidle, rfl, ht⟩ := access_msg_t he
    · exact .inl hsame
    · exact .inr (.inr (.inl ⟨hidle, nextCommand_of_inputs hin, ht⟩))
    · exact .inr (.inr (.inr (.inl ⟨hidle, nextCommand_of_inputs hin, ht⟩)))
  · exact .inl ⟨rfl, rfl⟩
  · obtain hsame | hconv | hmarg := engine_msg_t (s := { s with inputs := rest }) hi he
    · exact .inl hsame
    · exact .inr (.inr (.inr (.inr (.inl ⟨hm, hconv⟩))))
    · exact .inr (.inr (.inr (.inr (.inr ⟨hm, hmarg⟩))))

end Sys2Proof.Machine
end

section
/-! Fields of words: the byte lanes of a message word (spec/20_memory.md R63), the fields of
`STATUS` (spec/43_host_access.md R192), and `CAP` in its register (spec/10_state.md R35). -/

namespace Sys2Proof.Machine

theorem wordOfLanes_toNat (b0 b1 b2 b3 : Byte) : (wordOfLanes b0 b1 b2 b3).toNat =
    b3.toNat * 2 ^ 24 + b2.toNat * 2 ^ 16 + b1.toNat * 2 ^ 8 + b0.toNat := by
  have h0 := b0.isLt
  have h1 := b1.isLt
  have h2 := b2.isLt
  unfold wordOfLanes
  rw [BitVec.toNat_append, BitVec.toNat_append, BitVec.toNat_append,
    ← Nat.shiftLeft_add_eq_or_of_lt h0, ← Nat.shiftLeft_add_eq_or_of_lt h1,
    ← Nat.shiftLeft_add_eq_or_of_lt h2, Nat.shiftLeft_eq, Nat.shiftLeft_eq, Nat.shiftLeft_eq]
  ring

theorem extractLsb'_wordOfLanes (b : Fin 4 → Byte) (j : Fin 4) :
    (wordOfLanes (b 0) (b 1) (b 2) (b 3)).extractLsb' (8 * j.val) 8 = b j := by
  apply BitVec.eq_of_toNat_eq
  have h0 := (b 0).isLt
  have h1 := (b 1).isLt
  have h2 := (b 2).isLt
  have h3 := (b 3).isLt
  rw [BitVec.extractLsb'_toNat, wordOfLanes_toNat, Nat.shiftRight_eq_div_pow]
  fin_cases j <;> simp <;> omega

theorem extractLsb'_msgWord (out : Vector Byte 16) (w j : Fin 4) :
    (msgWord out w).extractLsb' (8 * j.val) 8 = out.get (Fin.ofNat 16 (4 * w.val + j.val)) :=
  extractLsb'_wordOfLanes (fun j => out.get (Fin.ofNat 16 (4 * w.val + j.val))) j

theorem busy_eq_decide (s : State) : s.busy = decide (s.phase ≠ .idle) := by
  rw [Bool.eq_iff_iff, busy_iff, decide_eq_true_eq]

theorem getLsbD_flagWord (b : Bool) (k : Nat) : (flagWord b).getLsbD k = (b && decide (k = 0)) := by
  cases b <;> simp [flagWord]

/-- `STATUS` bit by bit (R192). -/
theorem getLsbD_statusWord (s : State) {k : Nat} (hk : k < 32) :
    (statusWord s).getLsbD k =
      if k = 0 then s.busy else if k = 1 then s.done
      else if k < 4 then s.result.code.getLsbD (k - 2)
      else if k = 4 then s.chk else if k = 5 then s.chkValid else if k = 6 then s.irq
      else if k = 7 then false
      else if k < 12 then s.err.code.getLsbD (k - 8) else s.phase.code.getLsbD (k - 12) := by
  simp only [statusWord, BitVec.getLsbD_or, BitVec.getLsbD_shiftLeft, BitVec.getLsbD_setWidth,
    getLsbD_flagWord]
  interval_cases k <;> simp

theorem extractLsb'_eq_of_getLsbD {m n lo : Nat} {x : BitVec m} {y : BitVec n}
    (h : ∀ k < n, x.getLsbD (lo + k) = y.getLsbD k) : x.extractLsb' lo n = y :=
  BitVec.eq_of_getLsbD_eq fun k hk => by
    rw [BitVec.getLsbD_extractLsb', decide_eq_true hk, Bool.true_and, h k hk]

theorem statusWord_result (s : State) : (statusWord s).extractLsb' 2 2 = s.result.code :=
  extractLsb'_eq_of_getLsbD fun k hk => by
    rw [getLsbD_statusWord s (by omega)]
    interval_cases k <;> simp

theorem statusWord_err (s : State) : (statusWord s).extractLsb' 8 4 = s.err.code :=
  extractLsb'_eq_of_getLsbD fun k hk => by
    rw [getLsbD_statusWord s (by omega)]
    interval_cases k <;> simp

theorem statusWord_phase (s : State) : (statusWord s).extractLsb' 12 3 = s.phase.code :=
  extractLsb'_eq_of_getLsbD fun k hk => by
    rw [getLsbD_statusWord s (by omega)]
    interval_cases k <;> simp

theorem statusWord_high (s : State) : (statusWord s).extractLsb' 15 17 = 0 :=
  extractLsb'_eq_of_getLsbD fun k hk => by
    rw [getLsbD_statusWord s (by omega)]
    interval_cases k <;> simp

theorem setWidth_setWidth_16 (v : Word) : (v.setWidth 16).setWidth 32 = v &&& 0x0000FFFF := by
  apply BitVec.eq_of_toNat_eq
  rw [BitVec.toNat_and, show (0x0000FFFF : Word).toNat = 2 ^ 16 - 1 from rfl,
    Nat.and_two_pow_sub_one_eq_mod]
  simp only [BitVec.toNat_setWidth]
  omega

theorem exec_regWr_iterCap {s : State} (h : s.busy = false) (v : Word) :
    exec (.regWr 32 0x14 v) s = .next { s with cap := v.setWidth 16 } :=
  if_neg (by simp [h])

end Sys2Proof.Machine
end

section
/-! The obligations of spec/10_state.md: O15, O17, O19, O31, O45, O46, O51, O58. -/

namespace Sys2Proof

open Sys2Proof.Machine

/-- Settles O58: each kind of step keeps the invariant. -/
theorem everyStepKeepsInvariant : Obligations.EveryStepKeepsInvariant :=
  fun _ _ hs h => hs.step h

/-- Settles O15, field by field. -/
theorem statusShowsItsFields : Obligations.StatusShowsItsFields := by
  intro s
  have hbit := fun k hk => getLsbD_statusWord s (k := k) hk
  refine ⟨(hbit 0 (by simp)).trans (busy_eq_decide s), hbit 1 (by simp), ?_, hbit 4 (by simp),
    hbit 5 (by simp), hbit 6 (by simp), hbit 7 (by simp), ?_, ?_, ?_, statusWord_high s⟩
  · rw [statusWord_result]; cases s.result <;> rfl
  · rw [statusWord_err]; cases s.err <;> rfl
  · rw [statusWord_err]; cases s.err <;> decide
  · rw [statusWord_phase]; cases s.phase <;> rfl

/-- Settles O19: `setMsg` puts byte `4w + j` in lane `j` of word `w`. -/
theorem messageBytesAreLanes : Obligations.MessageBytesAreLanes := by
  intro out s w j
  rw [State.setMsg_msg, get_tabulate, extractLsb'_msgWord]
  congr 1
  exact Fin.ext (Nat.mod_eq_of_lt (by omega))

/-- Settles O31, from the list of the writers of `MSG0..3`. -/
theorem messageWriters : Obligations.MessageWriters := by
  intro s t h hne
  obtain ⟨hmsg, -⟩ | ⟨hr, -⟩ | ⟨hidle, hw, -⟩ | ⟨hidle, hw, -⟩ | ⟨hm, hp, hres, -⟩ |
    ⟨-, -, hmsg, -⟩ := step_msg_t h
  · exact absurd hmsg hne
  · exact .inl hr
  · exact .inr (.inl ⟨hidle, .inl hw⟩)
  · exact .inr (.inl ⟨hidle, .inr hw⟩)
  · exact .inr (.inr ⟨hm, hp, hres⟩)
  · exact absurd hmsg hne

/-- Settles O45, from the list of the writers of `t`. -/
theorem iterationIndexWriters : Obligations.IterationIndexWriters := by
  intro s t h hne
  obtain ⟨-, ht⟩ | ⟨hr, ht⟩ | ⟨-, -, ht⟩ | ⟨hidle, hw, ht⟩ | ⟨-, -, -, ht⟩ | ⟨hm, hp, -, ht⟩ :=
    step_msg_t h
  · exact absurd ht hne
  · exact .inl ⟨ht, .inl hr⟩
  · exact absurd ht hne
  · exact .inl ⟨ht, .inr ⟨hidle, hw⟩⟩
  · exact absurd ht hne
  · exact .inr ⟨ht, hm, hp⟩

/-- Settles O46: the exhaustion test of the first `CONV` comes before the convergence test. -/
theorem capZeroFailsUntested : Obligations.CapZeroFailsUntested := by
  refine ⟨fun s hidle => exec_regWr_iterCap hidle 0, fun s hp ht hcap hin => ?_⟩
  obtain ⟨s₁, hfirst, hp₁, hin₁, ht₁, hcap₁, hmsg₁⟩ := step_init hin hp
  have hlast := step_conv_exhausted hin₁ hp₁ (by rw [ht₁, ht, hcap₁, hcap]; rfl)
  exact ⟨_, (runSteps_succ hfirst 1).trans (runSteps_succ hlast 0), rfl, rfl, rfl,
    ht₁.trans ht, hmsg₁⟩

/-- Settles O17: `CAP` is the low half of the word, and reads back with zeros above. -/
theorem iterCapReadsBack : Obligations.IterCapReadsBack := by
  intro v s hidle
  refine ⟨_, exec_regWr_iterCap hidle v, ?_⟩
  rw [← setWidth_setWidth_16]
  rfl

/-- Settles O51: `State.reset` writes out each value of R42, and `STATUS` and the ROM registers follow
by evaluation. -/
theorem resetValues : Obligations.ResetValues :=
  ⟨fun a => get_replicate _ a, rfl, rfl, by decide, rfl, rfl, rfl, rfl, rfl, rfl, rfl, rfl, rfl,
    rfl, fun w => get_replicate _ w, rfl, rfl⟩

end Sys2Proof
end

section
/-! Host accesses at the register window (spec/20_memory.md R61, R62, R66): which addresses reach it,
which accesses it refuses, and what an accepted one does. -/

namespace Sys2Proof.Machine

/-! ### The window -/

theorem base_mod_256 : Config.base % 256 = 0 := Nat.mul_mod_right _ _

/-- `BASE` is a multiple of 256, so bits 7:0 of an address in the window are its distance from it. -/
theorem windowOffset_base_add {k : Nat} (hk : k < 256) :
    windowOffset (Config.base + k) = some (BitVec.ofNat 8 k) := by
  have hlow : BitVec.ofNat 8 (Config.base + k) = BitVec.ofNat 8 k := by
    apply BitVec.eq_of_toNat_eq
    rw [BitVec.toNat_ofNat, BitVec.toNat_ofNat, Nat.add_mod, base_mod_256, Nat.zero_add, Nat.mod_mod]
  rw [windowOffset, if_pos ⟨Nat.le_add_right _ _, Nat.add_lt_add_left hk _⟩, hlow]

theorem windowOffset_outside {addr : Nat} (h : addr < Config.base ∨ Config.base + 256 ≤ addr) :
    windowOffset addr = none := if_neg (by omega)

/-! ### Accepted and refused accesses -/

theorem accepts_eq_false_iff (bits : Nat) (off : BitVec 8) :
    accepts bits off = false ↔ bits ≠ 32 ∨ off.toNat % 4 ≠ 0 := by
  rw [← Bool.not_eq_true, accepts_iff, not_and_or]

theorem exec_regRd_accepted {bits : Nat} {off : BitVec 8} (h : accepts bits off = true) (s : State) :
    exec (.regRd bits off) s = .next { s with bus := .data (regValue off s) } := if_pos h

theorem exec_regRd_refused {bits : Nat} {off : BitVec 8} (h : accepts bits off = false) (s : State) :
    exec (.regRd bits off) s = .next (s.refuseAccess off) := if_neg (by simp [h])

theorem exec_regWr_accepted {bits : Nat} {off : BitVec 8} (h : accepts bits off = true) (v : Word)
    (s : State) : exec (.regWr bits off v) s = writeReg off v s := if_pos h

theorem exec_regWr_refused {bits : Nat} {off : BitVec 8} (h : accepts bits off = false) (v : Word)
    (s : State) : exec (.regWr bits off v) s = .next (s.refuseAccess off) := if_neg (by simp [h])

theorem refusedAt_regRd {bits : Nat} {off : BitVec 8} (h : accepts bits off = false) :
    refusedAt (.regRd bits off) = some off := if_neg (by simp [h])

theorem refusedAt_regWr {bits : Nat} {off : BitVec 8} (h : accepts bits off = false) (v : Word) :
    refusedAt (.regWr bits off v) = some off := if_neg (by simp [h])

theorem strictExec_of_refusedAt {i : Instr} {off : BitVec 8} (h : refusedAt i = some off)
    (s : State) : strictExec i s = .fault (.refusedBusAccess off) := by
  rw [strictExec, h]

/-! ### Writes -/

theorem exec_regWr_ctrl (v : Word) (s : State) :
    exec (.regWr 32 0x10 v) s = .next { s with ie := v.getLsbD 0 } := rfl

theorem exec_regWr_iterCap_busy {s : State} (h : s.busy = true) (v : Word) :
    exec (.regWr 32 0x14 v) s = .next (s.raise .busy) := if_pos h

theorem exec_regWr_dataLo (v : Word) (s : State) :
    exec (.regWr 32 0x20 v) s = .next { s with dataLo := v } := rfl

theorem exec_regWr_dataHi (v : Word) (s : State) :
    exec (.regWr 32 0x24 v) s = .next { s with dataHi := v } := rfl

theorem raise_raise (e : ErrCode) (s : State) : (s.raise e).raise e = s.raise e := by
  by_cases h : s.err = .none
  · rw [raise_first h]
    simp [State.raise]
  · rw [raise_later h, raise_later h]

theorem exec_regWr_iterCap_idempotent {v : Word} {s t : State}
    (h : exec (.regWr 32 0x14 v) s = .next t) : exec (.regWr 32 0x14 v) t = .next t := by
  cases hb : s.busy with
  | true =>
    rw [exec_regWr_iterCap_busy hb] at h
    cases h
    have hb' : (s.raise .busy).busy = true := hb
    rw [exec_regWr_iterCap_busy hb', raise_raise]
  | false =>
    rw [exec_regWr_iterCap hb] at h
    cases h
    have hb' : ({ s with cap := v.setWidth 16 } : State).busy = false := hb
    exact exec_regWr_iterCap hb' v

/-- `CMD`, `CTRL`, `ITER_CAP`, `DATA_LO` and `DATA_HI` are the only offsets a write acts on. -/
theorem writeReg_ignored {off : BitVec 8} (h : off ∉ [0x08, 0x10, 0x14, 0x20, 0x24]) (v : Word)
    (s : State) : writeReg off v s = .next s := by
  have hne : ∀ x ∈ ([0x08, 0x10, 0x14, 0x20, 0x24] : List (BitVec 8)), off.toNat ≠ x.toNat :=
    fun x hx he => h (BitVec.eq_of_toNat_eq he ▸ hx)
  unfold writeReg
  split
  case h_1 he => exact absurd he (hne 0x08 (by decide))
  case h_2 he => exact absurd he (hne 0x10 (by decide))
  case h_3 he => exact absurd he (hne 0x14 (by decide))
  case h_4 he => exact absurd he (hne 0x20 (by decide))
  case h_5 he => exact absurd he (hne 0x24 (by decide))
  case h_6 => rfl

theorem exec_decode_starts {s : State} (h : s.busy = false) :
    ∃ t, exec .decode s = .next t ∧ t.busy = true ∧ t.err = s.err :=
  ⟨_, if_neg (by simp [h]), rfl, rfl⟩

theorem exec_decode_busy {s : State} (h : s.busy = true) :
    exec .decode s = .next (s.raise .busy) := if_pos h

theorem exec_regWr_cmd_decode (s : State) :
    exec (.regWr 32 0x08 0x03000000) s = exec .decode s :=
  (exec_regWr_cmd _ s).trans (runCommand_ok (i := .decode) rfl s)

end Sys2Proof.Machine
end

section
/-! The obligations of spec/20_memory.md: O6, O16, O18. -/

namespace Sys2Proof

open Sys2Proof.Machine

/-- Settles O16: a read is answered or refused, a repeated write (a busy one to `ITER_CAP` too) finds
nothing left to change, and an accepted `DECODE` makes the block busy for the second. -/
theorem accessSideEffects : Obligations.AccessSideEffects := by
  refine ⟨fun bits off s => ?_, fun off v s t hoff h => ?_, fun off v s hal hoff => ?_,
    fun s hidle herr => ?_⟩
  · cases ha : accepts bits off with
    | true => exact ⟨_, exec_regRd_accepted ha s⟩
    | false => exact ⟨_, exec_regRd_refused ha s⟩
  · simp only [List.mem_cons, List.not_mem_nil, or_false] at hoff
    obtain rfl | rfl | rfl | rfl := hoff
    · rw [exec_regWr_ctrl] at h; cases h; rfl
    · exact exec_regWr_iterCap_idempotent h
    · rw [exec_regWr_dataLo] at h; cases h; rfl
    · rw [exec_regWr_dataHi] at h; cases h; rfl
  · rw [exec_regWr_accepted ((accepts_iff 32 off).2 ⟨rfl, hal⟩), writeReg_ignored hoff]
  · obtain ⟨t, ht, hbusy, hterr⟩ := exec_decode_starts hidle
    have hnone : t.err = .none := hterr.trans herr
    refine ⟨t, (exec_regWr_cmd_decode s).trans ht, hbusy, hnone, ?_⟩
    rw [exec_regWr_cmd_decode, exec_decode_busy hbusy, raise_first hnone]

/-- Settles O6: the interface accepts neither access, and the stopping reading faults wherever an
access is refused. -/
theorem otherAccessesAreRefused : Obligations.OtherAccessesAreRefused := by
  intro bits off v s h
  have ha : accepts bits off = false := (accepts_eq_false_iff bits off).2 h
  exact ⟨exec_regRd_refused ha s, exec_regWr_refused ha v s,
    strictExec_of_refusedAt (refusedAt_regRd ha) s, strictExec_of_refusedAt (refusedAt_regWr ha v) s⟩

/-- Settles O18: the window is one page of 256 bytes. -/
theorem windowIsAtBase : Obligations.WindowIsAtBase :=
  ⟨base_mod_256, fun _ => windowOffset_base_add, fun _ => windowOffset_outside⟩

end Sys2Proof
end

section
/-! Where the decoder rejects a command word (spec/30_encoding.md R85, R86), and that an encoding which
decodes is the encoding of what it decodes to. -/

namespace Sys2Proof

open Sys2Proof.Machine (wordIllegal decodeCommand_cases runCommand_error exec exec_regWr_cmd State)

/-! ### Encoding what was decoded -/

theorem decode_encode : ∀ i : Instr, Laws.RoundTrip.Statement i
  | .nop => Laws.RoundTrip.nop
  | .llrWr a => Laws.RoundTrip.llrWr a
  | .llrRd a => Laws.RoundTrip.llrRd a
  | .decode => Laws.RoundTrip.decode
  | .check => Laws.RoundTrip.check
  | .pack => Laws.RoundTrip.pack
  | .hRd i a => Laws.RoundTrip.hRd i a
  | .rowRd i k => Laws.RoundTrip.rowRd i k
  | .colRd a k => Laws.RoundTrip.colRd a k
  | .clear => Laws.RoundTrip.clear
  | .regRd bits off => Laws.RoundTrip.regRd bits off
  | .regWr bits off v => Laws.RoundTrip.regWr bits off v
  | .init => Laws.RoundTrip.init
  | .conv => Laws.RoundTrip.conv
  | .cnu => Laws.RoundTrip.cnu
  | .vnu => Laws.RoundTrip.vnu
  | .marg => Laws.RoundTrip.marg

theorem command_enc_of_fields {w : Word} {o : BitVec 8} {a b : BitVec 12}
    (ho : (opcField w).toNat = o.toNat) (ha : aField w = a) (hb : bField w = b) :
    Encoding.command (enc o a b) = .command w := by
  rw [← BitVec.eq_of_toNat_eq ho, ← ha, ← hb, enc_fields]

theorem encode_of_decodeCommand {w : Word} {i : Instr} (h : decodeCommand w = .ok i) :
    encode i = .command w := by
  obtain ⟨rfl, ho, ha, hb⟩ | ⟨rfl, ho, ha⟩ | ⟨rfl, ho, ha⟩ | ⟨rfl, ho, ha, hb⟩ | ⟨rfl, ho, ha, hb⟩ |
    ⟨rfl, ho, ha, hb⟩ | ⟨rfl, ho⟩ | ⟨rfl, ho⟩ | ⟨rfl, ho⟩ | ⟨rfl, ho, ha, hb⟩ := decodeCommand_cases h
  · exact command_enc_of_fields (o := 0x00) ho ha hb
  · exact command_enc_of_fields (o := 0x01) ho ha rfl
  · exact command_enc_of_fields (o := 0x02) ho ha rfl
  · exact command_enc_of_fields (o := 0x03) ho ha hb
  · exact command_enc_of_fields (o := 0x04) ho ha hb
  · exact command_enc_of_fields (o := 0x05) ho ha hb
  · exact command_enc_of_fields (o := 0x06) ho rfl rfl
  · exact command_enc_of_fields (o := 0x07) ho rfl rfl
  · exact command_enc_of_fields (o := 0x08) ho rfl rfl
  · exact command_enc_of_fields (o := 0x09) ho ha hb

theorem encode_of_decodePhase {code : BitVec 3} {i : Instr} (h : decodePhase code = .ok i) :
    encode i = .phase code := by
  unfold decodePhase at h
  split at h <;> cases h <;> exact congrArg Encoding.phase (BitVec.eq_of_toNat_eq (Eq.symm ‹_›))

theorem encode_decodeAccess (acc : BusAccess) : encode (decodeAccess acc) = .bus acc := by
  cases acc <;> rfl

theorem encode_of_decode {e : Encoding} {i : Instr} (h : decode e = .ok i) : encode i = e := by
  cases e with
  | command w => exact encode_of_decodeCommand h
  | bus acc => cases h; exact encode_decodeAccess acc
  | phase code => exact encode_of_decodePhase h

/-! ### Rejected words -/

theorem exists_ifZero_eq_error_iff {x : BitVec 12} {d : Except Reject Instr} :
    (∃ e, ifZero x d = .error e) ↔ x ≠ 0 ∨ ∃ e, d = .error e := by
  by_cases hx : x = 0
  · simp [ifZero, hx]
  · exact iff_of_true ⟨_, if_neg hx⟩ (.inl hx)

/-- The decoder rejects exactly the words of the ILLEGAL check. -/
theorem exists_decodeCommand_eq_error_iff {w : Word} :
    (∃ e, decodeCommand w = .error e) ↔ wordIllegal w := by
  unfold decodeCommand
  split
  case h_11 =>
    simp only [imp_false] at *
    exact iff_of_true ⟨_, rfl⟩ (.inl (by omega))
  all_goals simp [wordIllegal, exists_ifZero_eq_error_iff, *]

theorem exists_decodeCommand_eq_ok {w : Word} (h : ¬ wordIllegal w) :
    ∃ i, decodeCommand w = .ok i := by
  cases hd : decodeCommand w with
  | ok i => exact ⟨i, rfl⟩
  | error e => exact absurd (exists_decodeCommand_eq_error_iff.1 ⟨e, hd⟩) h

theorem exec_regWr_cmd_of_wordIllegal {w : Word} (h : wordIllegal w) (s : State) :
    exec (.regWr 32 0x08 w) s = .next (s.raise .illegal) := by
  obtain ⟨e, he⟩ := exists_decodeCommand_eq_error_iff.2 h
  exact (exec_regWr_cmd w s).trans (runCommand_error he s)

end Sys2Proof
end

section
/-! What each command does past the ILLEGAL check: BUSY, then RANGE, then its own effect
(spec/30_encoding.md R84, R85). -/

namespace Sys2Proof.Machine

/-! ### The lengths of the connectivity indices -/

@[simp] theorem length_insertAsc (x : Nat) (L : List Nat) : (insertAsc x L).length = L.length + 1 := by
  induction L with
  | nil => rfl
  | cons y ys ih =>
    rw [insertAsc]
    split <;> simp [ih]

@[simp] theorem length_sortAsc (L : List Nat) : (sortAsc L).length = L.length := by
  induction L with
  | nil => rfl
  | cons x xs ih => rw [sortAsc, List.foldr_cons, length_insertAsc, ← sortAsc, ih, List.length_cons]

/-- Every row has weight 8 (spec/40_code_structure.md R107): the shifts in its block row, counted. -/
theorem length_connsRow (i : Row) : (connsRow i).length = 8 := by
  have hcount : ∀ p < 4, ((List.range 8).map fun q => (blockAt p q).shifts.length).sum = 8 := by
    decide
  simpa [connsRow, rowEdges, List.length_flatMap] using hcount (i.val / 32) (by omega)

/-- A column has weight 5 or 3 (R107): the shifts in its block column, counted. -/
theorem length_connsCol (a : Col) : (connsCol a).length = if a.val < 128 then 5 else 3 := by
  have hcount : ∀ q < 8, ((List.range 4).map fun p => (blockAt p q).shifts.length).sum =
      if 32 * q < 128 then 5 else 3 := by decide
  have hblock : a.val < 128 ↔ 32 * (a.val / 32) < 128 := by omega
  simpa [connsCol, colEdges, List.length_flatMap, hblock] using hcount (a.val / 32) (by omega)

/-! ### The commands with a BUSY or a RANGE check -/

theorem exec_llrWr_busy {s : State} (h : s.busy = true) (a : BitVec 12) :
    exec (.llrWr a) s = .next (s.raise .busy) := if_pos h

theorem exec_llrWr_range {s : State} (h : s.busy = false) {a : BitVec 12} (ha : 256 ≤ a.toNat) :
    exec (.llrWr a) s = .next (s.raise .range) := by
  simp [exec, execLlrWr, h, colOperand_none ha]

theorem exec_llrWr_stores {s : State} (h : s.busy = false) {a : BitVec 12} (ha : a.toNat < 256) :
    exec (.llrWr a) s = .next (s.setLlr ⟨a.toNat, ha⟩ (s.dataHi ++ s.dataLo)) := by
  simp [exec, execLlrWr, h, colOperand_some ha]

theorem exec_llrRd_range (s : State) {a : BitVec 12} (ha : 256 ≤ a.toNat) :
    exec (.llrRd a) s = .next (s.raise .range) := by
  simp [exec, execLlrRd, colOperand_none ha]

theorem exec_llrRd_loads (s : State) {a : BitVec 12} (ha : a.toNat < 256) :
    exec (.llrRd a) s = .next (s.drawn.setData
      ((s.readLlr 0 ⟨a.toNat, ha⟩).extractLsb' 32 32)
      ((s.readLlr 0 ⟨a.toNat, ha⟩).extractLsb' 0 32)) := by
  simp [exec, execLlrRd, colOperand_some ha]

theorem exec_pack_busy {s : State} (h : s.busy = true) :
    exec .pack s = .next (s.raise .busy) := if_pos h

theorem exec_pack_packs {s : State} (h : s.busy = false) :
    exec .pack s = .next (s.drawn.setMsg (packMessage packBits s.llrVector)) :=
  if_neg (by simp [h])

theorem exec_hRd_range (s : State) {i a : BitVec 12} (h : 128 ≤ i.toNat ∨ 256 ≤ a.toNat) :
    exec (.hRd i a) s = .next (s.raise .range) := by
  obtain hi | ha := h
  · simp [exec, execHRd, rowOperand_none hi]
  · simp [exec, execHRd, colOperand_none ha]

theorem exec_hRd_reads (s : State) {i a : BitVec 12} (hi : i.toNat < 128) (ha : a.toNat < 256) :
    exec (.hRd i a) s =
      .next (s.setData 0 (if hBit ⟨i.toNat, hi⟩ ⟨a.toNat, ha⟩ then 1 else 0)) := by
  simp [exec, execHRd, rowOperand_some hi, colOperand_some ha]

theorem readConns_range {n : Nat} {conns : List (Fin n)} {k : BitVec 12}
    (h : conns.length ≤ k.toNat) (s : State) : readConns conns k s = .next (s.raise .range) := by
  obtain ⟨x, hx, -⟩ | ⟨-, he⟩ := readConns_cases conns k s
  · exact absurd (List.getElem?_eq_none h ▸ hx) (by simp)
  · exact he

theorem readConns_reads {n : Nat} {conns : List (Fin n)} {k : BitVec 12}
    (h : k.toNat < conns.length) (s : State) :
    ∃ x, conns[k.toNat]? = some x ∧ readConns conns k s =
      .next (s.setData (BitVec.ofNat 32 conns.length) (BitVec.ofNat 32 x.val)) := by
  obtain hx | ⟨hnone, -⟩ := readConns_cases conns k s
  · exact hx
  · exact absurd (List.getElem?_eq_none_iff.1 hnone) (by omega)

theorem exec_rowRd_of_row (s : State) {i k : BitVec 12} (hi : i.toNat < 128) :
    exec (.rowRd i k) s = readConns (connsRow ⟨i.toNat, hi⟩) k s := by
  simp [exec, execRowRd, rowOperand_some hi]

theorem exec_rowRd_range (s : State) {i k : BitVec 12} (h : 128 ≤ i.toNat ∨ 8 ≤ k.toNat) :
    exec (.rowRd i k) s = .next (s.raise .range) := by
  by_cases hi : i.toNat < 128
  · rw [exec_rowRd_of_row s hi, readConns_range (by rw [length_connsRow]; omega)]
  · simp [exec, execRowRd, rowOperand_none (not_lt.1 hi)]

theorem exec_rowRd_reads (s : State) {i k : BitVec 12} (hi : i.toNat < 128) (hk : k.toNat < 8) :
    ∃ a, (connsRow ⟨i.toNat, hi⟩)[k.toNat]? = some a ∧
      exec (.rowRd i k) s = .next (s.setData 8 (BitVec.ofNat 32 a.val)) := by
  have hlen := length_connsRow ⟨i.toNat, hi⟩
  obtain ⟨a, ha, he⟩ := readConns_reads (hlen ▸ hk) s
  exact ⟨a, ha, by rw [exec_rowRd_of_row s hi, he, hlen]; rfl⟩

theorem exec_colRd_of_col (s : State) {a k : BitVec 12} (ha : a.toNat < 256) :
    exec (.colRd a k) s = readConns (connsCol ⟨a.toNat, ha⟩) k s := by
  simp [exec, execColRd, colOperand_some ha]

theorem exec_colRd_range (s : State) {a k : BitVec 12}
    (h : 256 ≤ a.toNat ∨ (if a.toNat < 128 then 5 else 3) ≤ k.toNat) :
    exec (.colRd a k) s = .next (s.raise .range) := by
  by_cases ha : a.toNat < 256
  · rw [exec_colRd_of_col s ha, readConns_range]
    rw [length_connsCol]
    exact h.resolve_left (not_le.2 ha)
  · simp [exec, execColRd, colOperand_none (not_lt.1 ha)]

theorem exec_colRd_reads (s : State) {a k : BitVec 12} (ha : a.toNat < 256)
    (hk : k.toNat < if a.toNat < 128 then 5 else 3) :
    ∃ i, (connsCol ⟨a.toNat, ha⟩)[k.toNat]? = some i ∧ exec (.colRd a k) s = .next (s.setData
      (if a.toNat < 128 then 5 else 3) (BitVec.ofNat 32 i.val)) := by
  have hlen := length_connsCol ⟨a.toNat, ha⟩
  obtain ⟨i, hi, he⟩ := readConns_reads (hlen ▸ hk) s
  refine ⟨i, hi, ?_⟩
  rw [exec_colRd_of_col s ha, he, hlen]
  split <;> rfl

/-! ### The checks of a command, in order -/

/-- Command `i` in state `s` is held to a BUSY check `busy`, then to a RANGE check `range`, and past
both it reaches a next state and records no error (`CLEAR` clears `ERR`). -/
structure ChecksDecide (busy range : Prop) (i : Instr) (s : State) : Prop where
  raises_busy : busy → exec i s = .next (s.raise .busy)
  raises_range : ¬ busy → range → exec i s = .next (s.raise .range)
  accepted : ¬ busy → ¬ range →
    ∃ t, exec i s = .next t ∧ (t.err = s.err ∨ i = .clear ∧ t.err = .none)

/-- A command with neither check is always accepted. -/
theorem ChecksDecide.of_next {i : Instr} {s t : State} (h : exec i s = .next t)
    (herr : t.err = s.err ∨ i = .clear ∧ t.err = .none) : ChecksDecide False False i s :=
  ⟨False.elim, fun _ => False.elim, fun _ _ => ⟨t, h, herr⟩⟩

theorem llrWr_checksDecide (a : BitVec 12) (s : State) :
    ChecksDecide (s.busy = true) (256 ≤ a.toNat) (.llrWr a) s where
  raises_busy h := exec_llrWr_busy h a
  raises_range h ha := exec_llrWr_range (Bool.eq_false_of_not_eq_true h) ha
  accepted h ha :=
    ⟨_, exec_llrWr_stores (Bool.eq_false_of_not_eq_true h) (not_le.1 ha), .inl rfl⟩

theorem llrRd_checksDecide (a : BitVec 12) (s : State) :
    ChecksDecide False (256 ≤ a.toNat) (.llrRd a) s where
  raises_busy := False.elim
  raises_range _ := exec_llrRd_range s
  accepted _ ha := ⟨_, exec_llrRd_loads s (not_le.1 ha), .inl rfl⟩

theorem decode_checksDecide (s : State) : ChecksDecide (s.busy = true) False .decode s where
  raises_busy := exec_decode_busy
  raises_range _ := False.elim
  accepted h _ :=
    have ⟨t, ht, _, herr⟩ := exec_decode_starts (Bool.eq_false_of_not_eq_true h)
    ⟨t, ht, .inl herr⟩

theorem pack_checksDecide (s : State) : ChecksDecide (s.busy = true) False .pack s where
  raises_busy := exec_pack_busy
  raises_range _ := False.elim
  accepted h _ := ⟨_, exec_pack_packs (Bool.eq_false_of_not_eq_true h), .inl rfl⟩

theorem hRd_checksDecide (i a : BitVec 12) (s : State) :
    ChecksDecide False (128 ≤ i.toNat ∨ 256 ≤ a.toNat) (.hRd i a) s where
  raises_busy := False.elim
  raises_range _ := exec_hRd_range s
  accepted _ h :=
    have ⟨hi, ha⟩ := not_or.1 h
    ⟨_, exec_hRd_reads s (not_le.1 hi) (not_le.1 ha), .inl rfl⟩

theorem rowRd_checksDecide (i k : BitVec 12) (s : State) :
    ChecksDecide False (128 ≤ i.toNat ∨ 8 ≤ k.toNat) (.rowRd i k) s where
  raises_busy := False.elim
  raises_range _ := exec_rowRd_range s
  accepted _ h :=
    have ⟨hi, hk⟩ := not_or.1 h
    have ⟨_, _, he⟩ := exec_rowRd_reads s (not_le.1 hi) (not_le.1 hk)
    ⟨_, he, .inl rfl⟩

theorem colRd_checksDecide (a k : BitVec 12) (s : State) :
    ChecksDecide False (256 ≤ a.toNat ∨ (if a.toNat < 128 then 5 else 3) ≤ k.toNat)
      (.colRd a k) s where
  raises_busy := False.elim
  raises_range _ := exec_colRd_range s
  accepted _ h :=
    have ⟨ha, hk⟩ := not_or.1 h
    have ⟨_, _, he⟩ := exec_colRd_reads s (not_le.1 ha) (not_le.1 hk)
    ⟨_, he, .inl rfl⟩

/-- The checks of a word are those of the command it stands for: its opcode selects one line of each
table of R84 and R85. -/
theorem checksDecide_of_decodeCommand {w : Word} {i : Instr} (h : decodeCommand w = .ok i)
    (s : State) : ChecksDecide (wordBusy w s) (wordRange w) i s := by
  obtain ⟨rfl, ho, -⟩ | ⟨rfl, ho, -⟩ | ⟨rfl, ho, -⟩ | ⟨rfl, ho, -⟩ | ⟨rfl, ho, -⟩ |
    ⟨rfl, ho, -⟩ | ⟨rfl, ho⟩ | ⟨rfl, ho⟩ | ⟨rfl, ho⟩ | ⟨rfl, ho, -⟩ := decodeCommand_cases h <;>
    simp only [wordBusy, wordRange, ho]
  · simpa using ChecksDecide.of_next (i := .nop) (s := s) rfl (.inl rfl)
  · simpa using llrWr_checksDecide (bField w) s
  · simpa using llrRd_checksDecide (bField w) s
  · simpa using decode_checksDecide s
  · simpa using ChecksDecide.of_next (i := .check) (s := s) rfl (.inl rfl)
  · simpa using pack_checksDecide s
  · simpa using hRd_checksDecide (aField w) (bField w) s
  · simpa using rowRd_checksDecide (aField w) (bField w) s
  · simpa using colRd_checksDecide (aField w) (bField w) s
  · simpa using ChecksDecide.of_next (i := .clear) (s := s) rfl (.inr ⟨rfl, rfl⟩)

theorem exec_regWr_cmd_of_decodeCommand {w : Word} {i : Instr} (h : decodeCommand w = .ok i)
    (s : State) : exec (.regWr 32 0x08 w) s = exec i s :=
  (exec_regWr_cmd w s).trans (runCommand_ok h s)

end Sys2Proof.Machine
end

section
/-! The obligations of spec/30_encoding.md: O2, O3, O4. -/

namespace Sys2Proof

open Sys2Proof.Machine

/-- Settles O2: each row's encoding has that row's fields, and a word is determined by its fields. -/
theorem decodeAndEncodeAreInverse : Obligations.DecodeAndEncodeAreInverse :=
  ⟨decode_encode, fun _ _ => encode_of_decode⟩

/-- Settles O3: the reserved words are those the decoder rejects, and `raise` is the only effect. -/
theorem reservedWordsAreIllegal : Obligations.ReservedWordsAreIllegal :=
  fun _ s h => ⟨exists_decodeCommand_eq_error_iff.2 h, exec_regWr_cmd_of_wordIllegal h s⟩

/-- Settles O4: a word that is not illegal runs the command it decodes to, whose checks decide the
rest. -/
theorem firstFailingCheckDecides : Obligations.FirstFailingCheckDecides := by
  intro w s
  refine ⟨fun hill => exec_regWr_cmd_of_wordIllegal hill s, ?_⟩
  by_cases hill : wordIllegal w
  · exact ⟨absurd hill, absurd hill, absurd hill⟩
  obtain ⟨i, hi⟩ := exists_decodeCommand_eq_ok hill
  have hexec := exec_regWr_cmd_of_decodeCommand hi s
  have hchecks := checksDecide_of_decodeCommand hi s
  refine ⟨fun _ hbusy => hexec.trans (hchecks.raises_busy hbusy),
    fun _ hbusy hrange => hexec.trans (hchecks.raises_range hbusy hrange),
    fun _ hbusy hrange => ?_⟩
  obtain ⟨t, ht, herr⟩ := hchecks.accepted hbusy hrange
  exact ⟨i, t, hi, hexec, ht, herr⟩

end Sys2Proof
end

section
/-! The connectivity indices are sorted without repeats, the edges counted over all rows and over all
columns, and the word of a command written out by its fields (spec/40_code_structure.md R105 to
R111). -/

namespace Sys2Proof.Machine

/-! ### Strict order of the connectivity indices -/

theorem insertAsc_eq_orderedInsert (x : Nat) (L : List Nat) :
    insertAsc x L = L.orderedInsert (· ≤ ·) x := by
  induction L with
  | nil => rfl
  | cons y ys ih => rw [insertAsc, List.orderedInsert_cons, ih]

theorem sortAsc_eq_insertionSort (L : List Nat) : sortAsc L = L.insertionSort (· ≤ ·) := by
  induction L with
  | nil => rfl
  | cons x xs ih =>
    rw [sortAsc, List.foldr_cons, ← sortAsc, ih, insertAsc_eq_orderedInsert, List.insertionSort_cons]

theorem pairwise_lt_sortAsc {L : List Nat} (h : L.Nodup) : (sortAsc L).Pairwise (· < ·) := by
  rw [sortAsc_eq_insertionSort]
  have hle := List.pairwise_insertionSort (· ≤ ·) L
  have hne : (L.insertionSort (· ≤ ·)).Nodup := (List.perm_insertionSort (· ≤ ·) L).nodup_iff.2 h
  exact hle.imp₂ (fun _ _ => lt_of_le_of_ne) hne

/-- Indices below `n` keep their strict order when they are sorted and read as positions. -/
theorem pairwise_lt_map_ofNat_sortAsc {n : Nat} [NeZero n] {L : List Nat} (hnodup : L.Nodup)
    (hlt : ∀ x ∈ L, x < n) : ((sortAsc L).map (Fin.ofNat n)).Pairwise (· < ·) := by
  rw [List.pairwise_map]
  refine (pairwise_lt_sortAsc hnodup).imp_of_mem fun {x y} hx hy hxy => ?_
  simpa [Fin.lt_def, Nat.mod_eq_of_lt, hlt x (mem_sortAsc.1 hx), hlt y (mem_sortAsc.1 hy)] using hxy

theorem nodup_shifts {p q : Nat} (hp : p < 4) (hq : q < 8) : (blockAt p q).shifts.Nodup :=
  (by decide : ∀ p < 4, ∀ q < 8, (blockAt p q).shifts.Nodup) p hp q hq

/-- Edges listed block by block do not repeat: two in one block come from different shifts, and two
in different blocks are in different ranges of 32. -/
theorem nodup_blockEdges {n : Nat} {shifts : Nat → List Nat} {offset : Nat → Nat}
    (hnodup : ∀ q < n, (shifts q).Nodup) (hlt : ∀ k, offset k < 32)
    (hinj : ∀ q < n, ∀ k ∈ shifts q, ∀ l ∈ shifts q, offset k = offset l → k = l) :
    ((List.range n).flatMap fun q => (shifts q).map fun k => 32 * q + offset k).Nodup := by
  refine List.nodup_flatMap.2 ⟨fun q hq => ?_, List.pairwise_lt_range.imp fun {q q'} hq => ?_⟩
  · have hq := List.mem_range.1 hq
    exact (hnodup q hq).map_on fun k hk l hl h => hinj q hq k hk l hl (Nat.add_left_cancel h)
  · rw [Function.onFun, List.disjoint_iff_ne]
    intro x hx y hy
    obtain ⟨k, -, rfl⟩ := List.mem_map.1 hx
    obtain ⟨l, -, rfl⟩ := List.mem_map.1 hy
    have := hlt k
    have := hlt l
    omega

theorem nodup_rowEdges {i : Nat} (hi : i < 128) : (rowEdges i).Nodup := by
  have hp : i / 32 < 4 := by omega
  refine nodup_blockEdges (offset := fun k => (i % 32 + k) % 32) (fun q => nodup_shifts hp)
    (fun k => by omega) fun q hq k hk l hl h => ?_
  have := shift_lt hp hq hk
  have := shift_lt hp hq hl
  omega

theorem nodup_colEdges {a : Nat} (ha : a < 256) : (colEdges a).Nodup := by
  have hq : a / 32 < 8 := by omega
  refine nodup_blockEdges (offset := fun k => (a % 32 + (32 - k)) % 32)
    (fun p hp => nodup_shifts hp hq) (fun k => by omega) fun p hp k hk l hl h => ?_
  have := shift_lt hp hq hk
  have := shift_lt hp hq hl
  omega

theorem pairwise_lt_connsRow (i : Row) : (connsRow i).Pairwise (· < ·) :=
  pairwise_lt_map_ofNat_sortAsc (nodup_rowEdges i.isLt) fun x hx => by
    obtain ⟨q, hq, k, -, rfl⟩ := mem_rowEdges.1 hx
    omega

theorem pairwise_lt_connsCol (a : Col) : (connsCol a).Pairwise (· < ·) :=
  pairwise_lt_map_ofNat_sortAsc (nodup_colEdges a.isLt) fun x hx => by
    obtain ⟨p, hp, k, -, rfl⟩ := mem_colEdges.1 hx
    omega

/-! ### The edge count, by rows and by columns -/

theorem sum_length_connsRow : (allRows.map fun i => (connsRow i).length).sum = 1024 := by
  simp [allRows, length_connsRow]

/-- Half of the 256 columns weigh 5 and half weigh 3. -/
theorem sum_length_connsCol : (allCols.map fun a => (connsCol a).length).sum = 1024 := by
  have hheavy : (Finset.univ.filter fun a : Col => a.val < 128).card = 128 :=
    Fin.card_filter_val_lt
  have hlight : (Finset.univ.filter fun a : Col => ¬ a.val < 128).card = 128 := by
    rw [Finset.filter_not, Finset.card_univ_sdiff, hheavy, Fintype.card_fin]
  simp only [length_connsCol, allCols, ← Fin.sum_univ_def, Finset.sum_ite, Finset.sum_const,
    hheavy, hlight, smul_eq_mul]

end Sys2Proof.Machine

namespace Sys2Proof

open Sys2Proof.Machine

/-! ### The word of a command, written out by its fields -/

/-- No bit of a field is lost in the shift to its place, so `enc` is the word as the rules write it. -/
theorem enc_eq_or (opc : BitVec 8) (a b : BitVec 12) :
    enc opc a b = opc.setWidth 32 <<< 24 ||| a.setWidth 32 <<< 12 ||| b.setWidth 32 := by
  have := opc.isLt
  have := a.isLt
  have := b.isLt
  apply BitVec.eq_of_toNat_eq
  rw [enc, BitVec.toNat_append, BitVec.toNat_append, Nat.shiftLeft_or_distrib, ← Nat.shiftLeft_add]
  simp (disch := omega) only [BitVec.toNat_or, BitVec.toNat_shiftLeft, BitVec.toNat_setWidth,
    Nat.shiftLeft_eq, Nat.mod_eq_of_lt]

theorem decodeCommand_fields {opc : BitVec 8} {a b : BitVec 12} {i : Instr}
    (hi : i.wellFormed = true) (h : encode i = .command (enc opc a b)) :
    decodeCommand (opc.setWidth 32 <<< 24 ||| a.setWidth 32 <<< 12 ||| b.setWidth 32) = .ok i := by
  have hdecode := decode_encode i hi
  rwa [h, enc_eq_or] at hdecode

end Sys2Proof
end

section
/-! The obligations of spec/40_code_structure.md: O21, O22, O23, O24, O25. -/

namespace Sys2Proof

open Sys2Proof.Machine

/-- Settles O21: an index is the sorted list of its edges, which do not repeat. -/
theorem connectivityListsTheOnesOfH : Obligations.ConnectivityListsTheOnesOfH :=
  ⟨fun i => ⟨pairwise_lt_connsRow i, fun _ => mem_connsRow⟩,
    fun a => ⟨pairwise_lt_connsCol a, fun _ => mem_connsCol⟩⟩

/-- Settles O22: both indices list the ones of H, and a weight counts the shifts of a block row or
block column. -/
theorem connectivityWeights : Obligations.ConnectivityWeights :=
  ⟨fun _ _ => mem_connsRow.trans mem_connsCol.symm, length_connsRow, length_connsCol,
    sum_length_connsRow, sum_length_connsCol⟩

/-- Settles O23: in range the command sets `DATA`, out of range it only raises. -/
theorem hRdReadsOneBit : Obligations.HRdReadsOneBit :=
  ⟨fun _ _ s hi ha => exec_hRd_reads s hi ha, fun _ _ s => exec_hRd_range s,
    fun _ _ => decodeCommand_fields (opc := 0x06) rfl rfl, by decide, by decide⟩

/-- Settles O24: a row's list has 8 entries, so a position below 8 reads one. -/
theorem rowRdReadsRowIndex : Obligations.RowRdReadsRowIndex :=
  ⟨fun _ _ s hi hk => exec_rowRd_reads s hi hk, fun _ _ s => exec_rowRd_range s,
    fun _ _ => decodeCommand_fields (opc := 0x07) rfl rfl, by decide, by decide⟩

/-- Settles O25: a column's list is as long as its weight, so a position below the weight reads an
entry. -/
theorem colRdReadsColumnIndex : Obligations.ColRdReadsColumnIndex :=
  ⟨fun _ _ s ha hk => exec_colRd_reads s ha hk, fun _ _ s => exec_colRd_range s,
    fun _ _ => decodeCommand_fields (opc := 0x08) rfl rfl, by decide, by decide⟩

end Sys2Proof
end

section
/-! The convergence test counts ones row by row; the packed message and the message words, bit by bit
(spec/41_codeword_and_pack.md R130, R132; spec/10_state.md R38). -/

namespace Sys2Proof.Machine

/-! ### Syndromes -/

/-- An XOR over a list is the parity of the number of its ones. -/
theorem foldl_xor_eq_parity {α : Type} (p : α → Bool) (L : List α) (b : Bool) :
    L.foldl (fun acc a => acc ^^ p a) b = (b ^^ decide (L.countP p % 2 = 1)) := by
  induction L generalizing b with
  | nil => simp
  | cons a as ih =>
    have hflip : decide ((as.countP p + 1) % 2 = 1) = !decide (as.countP p % 2 = 1) := by
      rw [← decide_not]
      exact decide_eq_decide.2 (by omega)
    rw [List.foldl_cons, ih, List.countP_cons]
    cases p a with
    | false => simp
    | true => simp [hflip]

theorem syndrome_eq_parity (x : Vector F64 256) (i : Row) :
    syndrome x i = decide (((connsRow i).countP fun a => Fp.hard (x.get a)) % 2 = 1) :=
  (foldl_xor_eq_parity _ _ false).trans (Bool.false_xor _)

theorem isCodeword_iff {x : Vector F64 256} :
    isCodeword x = true ↔ ∀ i : Row, syndrome x i = false := by
  simp [isCodeword, allRows]

/-! ### The packed message, bit by bit -/

theorem getLsbD_foldl_or {w : Nat} (f : Nat → BitVec w) (L : List Nat) (x : BitVec w) (k : Nat) :
    (L.foldl (fun acc b => acc ||| f b) x).getLsbD k =
      (x.getLsbD k || L.any fun b => (f b).getLsbD k) := by
  induction L generalizing x with
  | nil => simp
  | cons b bs ih => rw [List.foldl_cons, ih, BitVec.getLsbD_or, List.any_cons, Bool.or_assoc]

/-- Position `8j + b` contributes its decision to bit `7 - b`, and nothing to another bit. -/
theorem getLsbD_packBit (bits : Nat) (x : Vector F64 256) (j : Fin 16) {b c : Nat} (hb : b < 8)
    (hc : c < 8) : (packBit bits x j b).getLsbD (7 - c) =
      (decide (b = c) && (decide (8 * j.val + b < bits) &&
        Fp.hard (x.get (Fin.ofNat 256 (8 * j.val + b))))) := by
  have hone : ((1 : Byte) <<< (7 - b)).getLsbD (7 - c) = decide (b = c) := by
    rw [BitVec.ofNat_eq_ofNat, ← BitVec.twoPow_eq, BitVec.getLsbD_twoPow, Bool.eq_iff_iff]
    simp only [Bool.and_eq_true, decide_eq_true_eq]
    omega
  rw [packBit, ← Fp.hard]
  cases decide (8 * j.val + b < bits) && Fp.hard (x.get (Fin.ofNat 256 (8 * j.val + b))) with
  | false => simp
  | true => rw [if_pos rfl, hone, Bool.and_true]

theorem getLsbD_packMessage (bits : Nat) (x : Vector F64 256) (j : Fin 16) {c : Nat} (hc : c < 8) :
    ((packMessage bits x).get j).getLsbD (7 - c) = (decide (8 * j.val + c < bits) &&
      Fp.hard (x.get (Fin.ofNat 256 (8 * j.val + c)))) := by
  rw [packMessage, get_tabulate, getLsbD_foldl_or, BitVec.ofNat_eq_ofNat,
    BitVec.getLsbD_zero, Bool.false_or, Bool.eq_iff_iff, List.any_eq_true]
  constructor
  · rintro ⟨b, hb, h⟩
    rw [getLsbD_packBit bits x j (List.mem_range.1 hb) hc, Bool.and_eq_true,
      decide_eq_true_eq] at h
    obtain ⟨rfl, h⟩ := h
    exact h
  · intro h
    refine ⟨c, List.mem_range.2 hc, ?_⟩
    rw [getLsbD_packBit bits x j hc hc, decide_eq_true rfl, Bool.true_and, h]

/-- R132 by position: bit `7 - a mod 8` of byte `a div 8` is the decision on `a`. -/
theorem getLsbD_packMessage_position (bits : Nat) (x : Vector F64 256) {a : Nat} (ha : a < 128) :
    ((packMessage bits x).get ⟨a / 8, by omega⟩).getLsbD (7 - a % 8) =
      (decide (a < bits) && Fp.hard (x.get ⟨a, by omega⟩)) := by
  have hpos : Fin.ofNat 256 (8 * (a / 8) + a % 8) = ⟨a, by omega⟩ := Fin.ext (by simp; omega)
  rw [getLsbD_packMessage bits x _ (by omega), hpos, Nat.div_add_mod]

/-- Bytes that agree in the bits `7 - c` are the same. -/
theorem byte_ext_msb_first {x y : Byte}
    (h : ∀ c < 8, x.getLsbD (7 - c) = y.getLsbD (7 - c)) : x = y := by
  refine BitVec.eq_of_getLsbD_eq fun k hk => ?_
  have hk' : 7 - (7 - k) = k := by omega
  simpa [hk'] using h (7 - k) (by omega)

/-- The packer sees the decisions on the positions below `PACK_BITS` and nothing else. -/
theorem packMessage_congr {bits : Nat} {x y : Vector F64 256}
    (h : ∀ a : Col, a.val < bits → Fp.hard (x.get a) = Fp.hard (y.get a)) :
    packMessage bits x = packMessage bits y := by
  refine vector_ext_get fun j => byte_ext_msb_first fun c hc => ?_
  rw [getLsbD_packMessage bits x j hc, getLsbD_packMessage bits y j hc]
  by_cases hlt : 8 * j.val + c < bits
  · have hmod : (8 * j.val + c) % 256 = 8 * j.val + c := by omega
    rw [h _ (by simpa [hmod] using hlt)]
  · rw [decide_eq_false hlt, Bool.false_and, Bool.false_and]

/-- The bytes past `PACK_BITS` are 0. -/
theorem packMessage_eq_zero {bits : Nat} (x : Vector F64 256) {j : Fin 16} (hj : bits ≤ 8 * j.val) :
    (packMessage bits x).get j = 0 :=
  byte_ext_msb_first fun c hc => by
    rw [getLsbD_packMessage bits x j hc, decide_eq_false (by omega), Bool.false_and,
      BitVec.ofNat_eq_ofNat, BitVec.getLsbD_zero]

/-! ### Message words -/

theorem getLsbD_msgWord (out : Vector Byte 16) (w j : Fin 4) {k : Nat} (hk : k < 8) :
    (msgWord out w).getLsbD (8 * j.val + k) =
      (out.get (Fin.ofNat 16 (4 * w.val + j.val))).getLsbD k := by
  rw [← extractLsb'_msgWord, BitVec.getLsbD_extractLsb', decide_eq_true hk, Bool.true_and]

/-- The decision on position `a` in its message word. -/
theorem getLsbD_msgWord_packMessage (bits : Nat) (x : Vector F64 256) {a : Nat} (ha : a < 128) :
    (msgWord (packMessage bits x) ⟨a / 32, by omega⟩).getLsbD (8 * (a / 8 % 4) + (7 - a % 8)) =
      (decide (a < bits) && Fp.hard (x.get ⟨a, by omega⟩)) := by
  have hbyte : Fin.ofNat 16 (4 * (a / 32) + a / 8 % 4) = ⟨a / 8, by omega⟩ :=
    Fin.ext (by simp; omega)
  rw [← getLsbD_packMessage_position bits x ha, ← hbyte]
  exact getLsbD_msgWord _ ⟨a / 32, by omega⟩ ⟨a / 8 % 4, by omega⟩ (by omega)

/-- `MSG2` and `MSG3` are 0 with 64 bits packed. -/
theorem msgWord_packMessage_64_eq_zero (x : Vector F64 256) {w : Fin 4} (hw : 2 ≤ w.val) :
    msgWord (packMessage 64 x) w = 0 := by
  have hbyte : ∀ j < 4, (packMessage 64 x).get (Fin.ofNat 16 (4 * w.val + j)) = 0 := fun j hj =>
    packMessage_eq_zero x (by simp; omega)
  have h0 := hbyte 0 (by decide)
  rw [Nat.add_zero] at h0
  rw [msgWord, h0, hbyte 1 (by decide), hbyte 2 (by decide), hbyte 3 (by decide)]
  rfl

end Sys2Proof.Machine
end

section
/-! What `CHECK` and `PACK` do, in both readings of an unwritten entry (spec/41_codeword_and_pack.md
R131, R134; spec/70_reset_and_hazards.md R251). -/

namespace Sys2Proof.Machine

/-- The stopping reading faults on a command that reads an unwritten entry. -/
theorem strictExec_of_unwritten {i : Instr} {s : State} (hi : refusedAt i = none) {a : Col}
    (hread : a ∈ llrReads i s) (ha : s.written.get a = false) :
    strictExec i s = .fault .unwrittenLlrRead := by
  have hany : readsUnwritten i s = true := List.any_eq_true.2 ⟨a, hread, by rw [ha]; rfl⟩
  rw [strictExec, hi]
  exact if_pos hany

theorem exec_check (s : State) : exec .check s = .next { s with
    chk := isCodeword s.llrVector, chkValid := true, draws := s.draws + 1 } := rfl

theorem mem_llrReads_check (s : State) (a : Col) : a ∈ llrReads .check s := List.mem_finRange a

theorem mem_llrReads_pack {s : State} (h : s.busy = false) {a : Col} :
    a ∈ llrReads .pack s ↔ a.val < packBits := by
  have hreads : llrReads .pack s = allCols.filter fun a => a.val < packBits :=
    if_neg (by simp [h])
  rw [hreads, List.mem_filter, decide_eq_true_eq]
  exact and_iff_right (List.mem_finRange a)

/-- `PACK` reads no entry past `PACK_BITS`. -/
theorem packMessage_llrVector {s : State} {bits : Nat}
    (h : ∀ a : Col, a.val < bits → s.written.get a = true) :
    packMessage bits s.llrVector = packMessage bits s.llr :=
  packMessage_congr fun a ha => by rw [llrVector_get, readLlr_written (h a ha)]

/-- `PACK` while idle, whatever was written. -/
theorem exec_pack_msg {s : State} (h : s.busy = false) :
    ∃ t, exec .pack s = .next t ∧ t = { s with msg := t.msg, draws := s.draws + 1 } ∧
      ∀ w, t.msg.get w = msgWord (packMessage 64 s.llrVector) w :=
  ⟨_, exec_pack_packs h, rfl, fun w => get_tabulate _ w⟩

end Sys2Proof.Machine

namespace Sys2Proof

open Sys2Proof.Machine

/-- A command with no operands is ILLEGAL with nonzero ones (spec/30_encoding.md R85). -/
theorem exec_regWr_cmd_nonzero_operands {w : Word} (s : State)
    (hopc : (opcField w).toNat ∈ [0x00, 0x03, 0x04, 0x05, 0x09])
    (hw : aField w ≠ 0 ∨ bField w ≠ 0) : exec (.regWr 32 0x08 w) s = .next (s.raise .illegal) :=
  exec_regWr_cmd_of_wordIllegal (.inr (.inl ⟨hopc, hw⟩)) s

end Sys2Proof
end

section
/-! The obligations of spec/41_codeword_and_pack.md: O26, O27, O29, O30. -/

namespace Sys2Proof

open Sys2Proof.Machine

/-- Settles O26: a row's syndrome is the parity of its ones. -/
theorem codewordIffEverySyndromeEven : Obligations.CodewordIffEverySyndromeEven := by
  intro x
  rw [isCodeword_iff]
  refine forall_congr' fun i => ?_
  rw [syndrome_eq_parity, decide_eq_false_iff_not]
  omega

/-- Settles O27: of the eight positions ORed into a byte, one reaches each bit. -/
theorem packedBitsAreHardDecisions : Obligations.PackedBitsAreHardDecisions :=
  ⟨rfl, fun bits x _ ha _ => getLsbD_packMessage_position bits x ha⟩

/-- Settles O29: the frame is the definition of `CHECK`, and with every entry written what it reads is
the buffer. -/
theorem checkTestsTheBuffer : Obligations.CheckTestsTheBuffer := by
  refine ⟨fun s hs => ?_, fun s => ⟨_, exec_check s⟩, fun s hs => ?_, by decide,
    fun w s hopc hw => exec_regWr_cmd_nonzero_operands s (by simp [hopc]) hw⟩
  · rw [exec_check, llrVector_written hs]
  · obtain ⟨a, ha⟩ := not_forall.1 hs
    exact strictExec_of_unwritten rfl (mem_llrReads_check s a) (Bool.eq_false_of_not_eq_true ha)

/-- Settles O30: the message of `PACK` depends on the entries below 64 alone, each in a bit of its own,
and fills two of the four words. -/
theorem packPacksTheBuffer : Obligations.PackPacksTheBuffer := by
  refine ⟨fun s hidle hs => ?_, fun s hidle => ?_, fun s => exec_pack_busy,
    fun s hidle ⟨a, ha, hu⟩ => strictExec_of_unwritten rfl ((mem_llrReads_pack hidle).2 ha) hu,
    by decide, fun w s hopc hw => exec_regWr_cmd_nonzero_operands s (by simp [hopc]) hw⟩
  all_goals
    obtain ⟨t, ht, hframe, hmsg⟩ := exec_pack_msg hidle
    have hzero : ∀ w : Fin 4, 2 ≤ w.val → t.msg.get w = 0 := fun w hw =>
      (hmsg w).trans (msgWord_packMessage_64_eq_zero _ hw)
  · refine ⟨t, ht, hframe, fun w => ?_, hzero 2 (by decide), hzero 3 (by decide)⟩
    rw [hmsg, packMessage_llrVector hs]
  · refine ⟨t, ht, hframe, fun a ha => ?_, hzero 2 (by decide), hzero 3 (by decide)⟩
    rw [hmsg, getLsbD_msgWord_packMessage 64 _ (by omega), decide_eq_true a.isLt, Bool.true_and,
      llrVector_get, readLlr_written ha]

end Sys2Proof
end

section
/-! The two folds of the decoder (spec/42_decoder.md R160, R161): a product of factors in [−1, 1] stays
there, and an addend +0.0 changes nothing but the sign of a zero. -/

namespace Sys2Proof.Fp

open Sys2Proof.Machine (inUnitOrNaN)

/-! ### Products in [−1, 1] -/

/-- Rounding does not pass a finite magnitude that the exact value does not pass. -/
theorem roundMag_le {k n m : Nat} (hm : m < infMag) (hn : n ≤ magUnits m * 2 ^ k) :
    roundMag k n ≤ m := by
  by_contra hlt
  have hfar : magUnits m * 2 ^ k < magUnits (roundMagUnbounded k n) * 2 ^ k := by
    refine Nat.mul_lt_mul_of_pos_right (magUnits_strictMono ?_) (Nat.two_pow_pos k)
    rw [roundMag_eq_min] at hlt
    omega
  obtain ⟨hnear, -⟩ := roundMagUnbounded_isNearestMag k n m
  simp only [magError] at hnear
  omega

/-- A value of [−1, 1] is one whose magnitude bits are at most those of 1.0. -/
theorem inUnit_iff_mag_le {x : F64} : le negOne x = true ∧ le x one = true ↔ mag x ≤ mag one := by
  have hone : mag one = 0x3FF0000000000000 := by decide
  rw [le_iff, le_iff, Config.key_one, Config.key_negOne, Config.isNaN_one, Config.isNaN_negOne, hone,
    isNaN, decide_eq_false_iff_not, infMag, key]
  cases sign x <;> simp <;> omega

theorem inUnitOrNaN_one : inUnitOrNaN one := .inr (inUnit_iff_mag_le.2 le_rfl)

theorem isFinite_of_mag_le_one {x : F64} (h : mag x ≤ mag one) : isFinite x = true :=
  decide_eq_true (h.trans_lt (by decide))

theorem magUnits_mag_one : magUnits (mag one) = 2 ^ 1074 := by
  rw [show mag one = 1022 * 2 ^ 52 + 2 ^ 52 by decide,
    magUnits_significand (by decide) (.inr le_rfl), ← pow_add]

theorem units_le_of_mag_le_one {x : F64} (h : mag x ≤ mag one) : units x ≤ 2 ^ 1074 := by
  rw [← magUnits_mag_one]
  exact magUnits_strictMono.monotone h

theorem inUnitOrNaN_fmul {x y : F64} (hx : inUnitOrNaN x) (hy : inUnitOrNaN y) :
    inUnitOrNaN (fmul x y) := by
  obtain hx | hx := hx
  · exact .inl (isNaN_fmul_of_isNaN (.inl hx))
  obtain hy | hy := hy
  · exact .inl (isNaN_fmul_of_isNaN (.inr hy))
  rw [inUnit_iff_mag_le] at hx hy
  have hunits : units x * units y ≤ magUnits (mag one) * 2 ^ 1074 := by
    rw [magUnits_mag_one]
    exact Nat.mul_le_mul (units_le_of_mag_le_one hx) (units_le_of_mag_le_one hy)
  refine .inr (inUnit_iff_mag_le.2 ?_)
  rw [fmul_of_finite (isFinite_of_mag_le_one hx) (isFinite_of_mag_le_one hy),
    mag_ofSignMag _ (roundMag_lt _ _)]
  exact roundMag_le (by decide) hunits

theorem inUnitOrNaN_prodFold {α : Type} {f : α → F64} (hf : ∀ b, inUnitOrNaN (f b)) (L : List α) :
    inUnitOrNaN (prodFold L f) :=
  List.foldlRecOn L (fun acc b => fmul acc (f b)) inUnitOrNaN_one
    fun _ hacc b _ => inUnitOrNaN_fmul hacc (hf b)

/-- T3 and T4 of spec/00_scope.md R14 between them. -/
theorem inUnitOrNaN_tanh (x : F64) : inUnitOrNaN (Config.tanh x) := by
  have laws := Config.transcendental.laws
  cases hx : isNaN x with
  | true => exact .inl (laws.tanh_nan x hx)
  | false => exact .inr ⟨laws.tanh_ge x hx, laws.tanh_le x hx⟩

/-! ### Sums that differ in the sign of a zero -/

/-- Both NaN, or the same value, or both zeros. -/
def SameUpToZeroSign (x y : F64) : Prop :=
  (isNaN x = true ∧ isNaN y = true) ∨ x = y ∨ (isZero x = true ∧ isZero y = true)

theorem isNaN_or_isInf_or_isFinite (x : F64) :
    isNaN x = true ∨ isInf x = true ∨ isFinite x = true := by
  simp only [isNaN, isInf, isFinite, decide_eq_true_eq]
  omega

theorem isFinite_of_isZero {x : F64} (h : isZero x = true) : isFinite x = true := by
  simp only [isZero, isFinite, decide_eq_true_eq] at *
  rw [h]
  decide

theorem value_of_isZero {x : F64} (h : isZero x = true) : value x = 0 := by
  rw [value, units_eq_magUnits, of_decide_eq_true h, magUnits_zero]
  simp

theorem isZero_of_value_eq_zero {x : F64} (h : value x = 0) : isZero x = true := by
  have hunits : magUnits (mag x) = magUnits 0 := by
    rw [← units_eq_magUnits, ← natAbs_value, h, magUnits_zero, Int.natAbs_zero]
  exact decide_eq_true (magUnits_strictMono.injective hunits)

theorem isZero_ofSignMag_zero (s : Bool) : isZero (ofSignMag s 0) = true := by
  cases s <;> decide

theorem SameUpToZeroSign.trans {x y z : F64} (hxy : SameUpToZeroSign x y)
    (hyz : SameUpToZeroSign y z) : SameUpToZeroSign x z := by
  have hdisj : isZero y = true → isNaN y = false := fun h =>
    not_isNaN_of_isFinite (isFinite_of_isZero h)
  obtain ⟨hx, hy⟩ | rfl | ⟨hx, hy⟩ := hxy
  · obtain ⟨-, hz⟩ | rfl | ⟨hy', -⟩ := hyz
    · exact .inl ⟨hx, hz⟩
    · exact .inl ⟨hx, hy⟩
    · exact absurd hy (by simp [hdisj hy'])
  · exact hyz
  · obtain ⟨hy', -⟩ | rfl | ⟨-, hz⟩ := hyz
    · exact absurd hy' (by simp [hdisj hy])
    · exact .inr (.inr ⟨hx, hy⟩)
    · exact .inr (.inr ⟨hx, hz⟩)

/-- A finite value is its own rounding. -/
theorem roundMag_magUnits {m : Nat} (hm : m < infMag) : roundMag 0 (magUnits m) = m := by
  obtain ⟨hnear, -⟩ := roundMagUnbounded_isNearestMag 0 (magUnits m) m
  have hexact : magUnits (roundMagUnbounded 0 (magUnits m)) = magUnits m := by
    simp only [magError] at hnear
    omega
  rw [roundMag_eq_min, magUnits_strictMono.injective hexact]
  omega

theorem ofSignMag_sign_mag (x : F64) : ofSignMag (sign x) (mag x) = x := by
  apply BitVec.eq_of_toNat_eq
  rw [ofSignMag, BitVec.toNat_ofNat, ← toNat_eq_mag_add_sign]
  exact Nat.mod_eq_of_lt x.isLt

/-- An addend zero changes a value by no more than the sign of a zero. -/
theorem sameUpToZeroSign_fadd_posZero (x : F64) : SameUpToZeroSign (fadd x posZero) x := by
  have hzero : isFinite posZero = true := by decide
  obtain hnan | hinf | hfin := isNaN_or_isInf_or_isFinite x
  · exact .inl ⟨isNaN_fadd_of_isNaN (.inl hnan), hnan⟩
  · exact .inr (.inl (fadd_of_isInf hinf (.inl hzero)).1)
  rw [fadd_of_finite hfin hzero, show value posZero = 0 by decide, add_zero, natAbs_value]
  split
  case isTrue hv => exact .inr (.inr ⟨isZero_ofSignMag_zero _, isZero_of_value_eq_zero hv⟩)
  case isFalse hv =>
    have hsign : decide (value x < 0) = sign x := by
      rw [value] at hv ⊢
      cases sign x <;> simp at hv ⊢
      omega
    right; left
    rw [hsign, units_eq_magUnits, roundMag_magUnits (of_decide_eq_true hfin), ofSignMag_sign_mag]

theorem SameUpToZeroSign.fadd {x y : F64} (h : SameUpToZeroSign x y) (z : F64) :
    SameUpToZeroSign (fadd x z) (fadd y z) := by
  obtain ⟨hx, hy⟩ | rfl | ⟨hx, hy⟩ := h
  · exact .inl ⟨isNaN_fadd_of_isNaN (.inl hx), isNaN_fadd_of_isNaN (.inl hy)⟩
  · exact .inr (.inl rfl)
  have hfx := isFinite_of_isZero hx
  have hfy := isFinite_of_isZero hy
  obtain hnan | hinf | hfin := isNaN_or_isInf_or_isFinite z
  · exact .inl ⟨isNaN_fadd_of_isNaN (.inr hnan), isNaN_fadd_of_isNaN (.inr hnan)⟩
  · obtain ⟨-, hxz⟩ := fadd_of_isInf hinf (.inl hfx)
    obtain ⟨-, hyz⟩ := fadd_of_isInf hinf (.inl hfy)
    exact .inr (.inl (hxz.trans hyz.symm))
  rw [fadd_of_finite hfx hfin, fadd_of_finite hfy hfin, value_of_isZero hx, value_of_isZero hy]
  split
  · exact .inr (.inr ⟨isZero_ofSignMag_zero _, isZero_ofSignMag_zero _⟩)
  · exact .inr (.inl rfl)

/-- Addends +0.0 can be left out of a sum. -/
theorem sameUpToZeroSign_sumFold_filter {α : Type} {p : α → Bool} {f : α → F64} (L : List α)
    (hf : ∀ j, p j = false → f j = posZero) {x y : F64} (h : SameUpToZeroSign x y) :
    SameUpToZeroSign (sumFold x L f) (sumFold y (L.filter p) f) := by
  induction L generalizing x y with
  | nil => exact h
  | cons j js ih =>
    cases hp : p j with
    | true =>
      rw [List.filter_cons_of_pos hp]
      exact ih (h.fadd (f j))
    | false =>
      rw [List.filter_cons_of_neg (by simp [hp])]
      refine ih (SameUpToZeroSign.trans ?_ h)
      simpa only [hf j hp] using sameUpToZeroSign_fadd_posZero x

theorem hard_of_isZero {x : F64} (h : isZero x = true) : hard x = true := by
  have hmag : mag x = 0 := of_decide_eq_true h
  simp [hard, le0, le_iff, key, hmag, not_isNaN_of_isFinite (isFinite_of_isZero h),
    show isNaN posZero = false by decide, show mag posZero = 0 by decide]

theorem SameUpToZeroSign.hard_eq {x y : F64} (h : SameUpToZeroSign x y) : hard x = hard y := by
  obtain ⟨hx, hy⟩ | rfl | ⟨hx, hy⟩ := h
  · rw [hard_eq_sign_or_zero, hard_eq_sign_or_zero, hx, hy]
    rfl
  · rfl
  · rw [hard_of_isZero hx, hard_of_isZero hy]

end Sys2Proof.Fp

namespace Sys2Proof.Machine

/-- A column's index is the list of all rows, less those off the edges. -/
theorem connsCol_eq_filter (a : Col) : connsCol a = allRows.filter fun i => hBit i a :=
  (pairwise_lt_connsCol a).eq_of_mem_iff ((List.pairwise_lt_finRange 128).filter _) fun i => by
    simp [mem_connsCol, allRows]

end Sys2Proof.Machine
end

section
/-! The obligations on the decoder's arithmetic: O36, O37. -/

namespace Sys2Proof

open Sys2Proof.Machine

/-- Settles O36: a product of factors from [−1, 1] rounds to no magnitude past that of 1.0. -/
theorem atanhArgumentStaysInRange : Obligations.AtanhArgumentStaysInRange :=
  fun _ _ L => ⟨Fp.inUnitOrNaN_tanh, Fp.inUnitOrNaN_prodFold (fun _ => Fp.inUnitOrNaN_tanh _) L⟩

/-- Settles O37: the dense sum takes the addends of the edge sum in the same order, with zeros
between. -/
theorem denseAndEdgeSumsAgree : Obligations.DenseAndEdgeSumsAgree := by
  intro llr u a hzero dense edge
  have h : Fp.SameUpToZeroSign dense edge := by
    simp only [dense, edge, connsCol_eq_filter]
    exact Fp.sameUpToZeroSign_sumFold_filter allRows hzero (.inr (.inl rfl))
  exact ⟨h, h.hard_eq⟩

end Sys2Proof
end

section
/-! What the engine's steps write (spec/42_decoder.md R152, R155 to R157), entry by entry, and that
every instruction, so every step, reaches a next state (spec/60_exceptions.md R223, R229). -/

namespace Sys2Proof.Machine

/-! ### The other edges of a row or a column -/

theorem length_filter_bne {α : Type} [BEq α] [LawfulBEq α] {L : List α} {a : α} (hL : L.Nodup)
    (ha : a ∈ L) : (L.filter fun b => b != a).length = L.length - 1 := by
  rw [← hL.erase_eq_filter, List.length_erase_of_mem ha]

theorem length_connsRow_others {i : Row} {a : Col} (h : hBit i a = true) :
    ((connsRow i).filter fun b => b != a).length = 7 := by
  rw [length_filter_bne (pairwise_lt_connsRow i).nodup (mem_connsRow.2 h), length_connsRow]

theorem length_connsCol_others {i : Row} {a : Col} (h : hBit i a = true) :
    ((connsCol a).filter fun j => j != i).length = if a.val < 128 then 4 else 2 := by
  rw [length_filter_bne (pairwise_lt_connsCol a).nodup (mem_connsCol.2 h), length_connsCol]
  split <;> rfl

/-! ### The entries each phase writes -/

theorem tabulate_const {α : Type} {n : Nat} (a : α) :
    (tabulate fun _ => a) = Vector.replicate n a :=
  vector_ext_get fun k => by rw [get_tabulate, get_replicate]

theorem exec_decode_idle {s : State} (h : s.busy = false) :
    exec .decode s = .next { s with
      msg := Vector.replicate 4 0, done := false, result := .none, t := 0, phase := .init } := by
  rw [← tabulate_const]
  exact if_neg (by simp [h])

theorem exec_init_entries (s : State) :
    ∃ t, exec .init s = .next t ∧
      t = { s with r := t.r, u := t.u, v := t.v, phase := .conv, draws := s.draws + 1 } ∧
      (∀ a, t.r.get a = s.readLlr 0 a) ∧
      (∀ i a, (t.u.get i).get a = Fp.posZero) ∧
      (∀ i a, (t.v.get a).get i = if hBit i a then s.readLlr (1 + i.val) a else Fp.posZero) :=
  ⟨_, rfl, rfl, fun a => get_tabulate _ a, fun i a => by simp, fun i a => by simp⟩

theorem exec_cnu_entries (s : State) :
    ∃ t, exec .cnu s = .next t ∧ t = { s with u := t.u, phase := .vnu } ∧
      (∀ i a, (t.u.get i).get a =
        if hBit i a then checkMessage Config.tanh Config.atanh s.v i a else (s.u.get i).get a) :=
  ⟨_, rfl, rfl, fun i a => by simp [mem_connsRow]⟩

theorem exec_vnu_entries (s : State) :
    ∃ t, exec .vnu s = .next t ∧
      t = { s with v := t.v, phase := .marg, draws := s.draws + 1 } ∧
      (∀ i a, (t.v.get a).get i =
        if hBit i a then variableMessage (s.readLlr i.val a) s.u a i else (s.v.get a).get i) :=
  ⟨_, rfl, rfl, fun i a => by simp [mem_connsCol]⟩

theorem exec_marg_entries (s : State) :
    ∃ t, exec .marg s = .next t ∧
      t = { s with r := t.r, t := s.t + 1, phase := .conv, draws := s.draws + 1 } ∧
      (∀ a, t.r.get a = marginal (s.readLlr 0 a) s.u a) :=
  ⟨_, rfl, rfl, fun a => get_tabulate _ a⟩

/-! ### Every step goes on -/

theorem ChecksDecide.exists_next {busy range : Prop} {i : Instr} {s : State}
    (h : ChecksDecide busy range i s) : ∃ t, exec i s = .next t := by
  by_cases hbusy : busy
  · exact ⟨_, h.raises_busy hbusy⟩
  by_cases hrange : range
  · exact ⟨_, h.raises_range hbusy hrange⟩
  obtain ⟨t, ht, -⟩ := h.accepted hbusy hrange
  exact ⟨t, ht⟩

theorem exists_exec_regWr_cmd_next (w : Word) (s : State) :
    ∃ t, exec (.regWr 32 0x08 w) s = .next t := by
  by_cases hill : wordIllegal w
  · exact ⟨_, exec_regWr_cmd_of_wordIllegal hill s⟩
  obtain ⟨i, hi⟩ := exists_decodeCommand_eq_ok hill
  rw [exec_regWr_cmd_of_decodeCommand hi]
  exact (checksDecide_of_decodeCommand hi s).exists_next

theorem exists_writeReg_next (off : BitVec 8) (v : Word) (s : State) :
    ∃ t, writeReg off v s = .next t := by
  by_cases hoff : off ∈ ([0x08, 0x10, 0x14, 0x20, 0x24] : List (BitVec 8))
  · simp only [List.mem_cons, List.not_mem_nil, or_false] at hoff
    obtain rfl | rfl | rfl | rfl | rfl := hoff
    · exact exists_exec_regWr_cmd_next v s
    · exact ⟨_, exec_regWr_ctrl v s⟩
    · cases hb : s.busy with
      | true => exact ⟨_, exec_regWr_iterCap_busy hb v⟩
      | false => exact ⟨_, exec_regWr_iterCap hb v⟩
    · exact ⟨_, exec_regWr_dataLo v s⟩
    · exact ⟨_, exec_regWr_dataHi v s⟩
  · exact ⟨_, writeReg_ignored hoff v s⟩

theorem exists_access_next (acc : BusAccess) (s : State) :
    ∃ t, exec (decodeAccess acc) s = .next t := by
  cases acc with
  | read bits off =>
    cases h : accepts bits off with
    | true => exact ⟨_, exec_regRd_accepted h s⟩
    | false => exact ⟨_, exec_regRd_refused h s⟩
  | write bits off v =>
    cases h : accepts bits off with
    | true =>
      obtain ⟨t, ht⟩ := exists_writeReg_next off v s
      exact ⟨t, (exec_regWr_accepted h v s).trans ht⟩
    | false => exact ⟨_, exec_regWr_refused h v s⟩

theorem exists_exec_conv_next (s : State) : ∃ t, exec .conv s = .next t := by
  by_cases hcap : s.t = s.cap.toNat
  · exact ⟨_, exec_conv_exhausted hcap⟩
  cases hc : isCodeword s.r with
  | true => exact ⟨_, exec_conv_decoded hcap hc⟩
  | false => exact ⟨_, exec_conv_continues hcap hc⟩

theorem exists_engine_next {i : Instr} {p : Phase} (hi : enginePhase p = some i) (s : State) :
    ∃ t, exec i s = .next t := by
  cases p <;> cases hi
  case init => exact ⟨_, rfl⟩
  case conv => exact exists_exec_conv_next s
  case cnu => exact ⟨_, rfl⟩
  case vnu => exact ⟨_, rfl⟩
  case marg => exact ⟨_, rfl⟩

theorem exists_step_next (s : State) : ∃ t, step s = .next t := by
  obtain ⟨rest, -, e⟩ | ⟨acc, rest, -, e⟩ | ⟨-, rest, -, ⟨-, e⟩ | ⟨i, hi, e⟩⟩ := step_cases s <;>
    rw [e]
  · exact ⟨_, rfl⟩
  · exact exists_access_next acc _
  · exact ⟨_, rfl⟩
  · exact exists_engine_next hi _

/-! ### The instruction of a step -/

theorem enginePhase_of_decode {p : Phase} {i : Instr} (h : decode (.phase p.code) = .ok i) :
    enginePhase p = some i := congrArg Except.toOption h

theorem step_of_access {s : State} {acc : BusAccess} {rest : List Input}
    (hin : s.inputs = .access acc :: rest) :
    step s = exec (decodeAccess acc) { s with inputs := rest, bus := .accepted } := by
  rw [step, fetch_access hin]

theorem step_of_engineTurn {s : State} {rest : List Input} {i : Instr}
    (hin : s.inputs = .engineTurn :: rest) (hi : enginePhase s.phase = some i) :
    step s = exec i { s with inputs := rest } := by
  rw [step, fetch_engineTurn hin, hi]

theorem step_of_engineTurn_idle {s : State} {rest : List Input}
    (hin : s.inputs = .engineTurn :: rest) (hp : s.phase = .idle) :
    step s = .next { s with inputs := rest } := by
  rw [step, fetch_engineTurn hin, hp, enginePhase_idle]

theorem step_of_idle {s : State} (hin : s.inputs = []) (hp : s.phase = .idle) :
    step s = .next s := by
  rw [step, fetch_nil hin, hp, enginePhase_idle]

end Sys2Proof.Machine
end

section
/-! The obligations of spec/42_decoder.md on single steps: O38 to O43, O53, O55. -/

namespace Sys2Proof

open Sys2Proof.Machine

/-- Settles O38: `DECODE` checks BUSY first, and its word has no operands. -/
theorem decodeStartsADecode : Obligations.DecodeStartsADecode := by
  refine ⟨fun s => exec_decode_idle, fun s => exec_decode_busy, fun s t hidle h => ?_, by decide,
    fun w s hopc hw => exec_regWr_cmd_nonzero_operands s (by simp [hopc]) hw⟩
  rw [exec_decode_idle hidle] at h
  cases h
  exact ⟨Bool.and_false _, rfl⟩

/-- Settles O39: a read of a written entry gives the stored value, each time `INIT` reads it. -/
theorem initCopiesTheChannel : Obligations.InitCopiesTheChannel := by
  intro s
  obtain ⟨t, ht, hframe, hr, hu, hv⟩ := exec_init_entries s
  refine ⟨t, ht, hframe, fun a hw => ?_, hu, fun i a he hw => ?_, fun i a he => ?_⟩
  · rw [hr, readLlr_written hw]
  · rw [hv, if_pos he, readLlr_written hw]
  · rw [hv, he, if_neg Bool.false_ne_true]

/-- Settles O40: the three branches of `CONV`. -/
theorem convTestsThenDecides : Obligations.ConvTestsThenDecides :=
  ⟨fun _ => exec_conv_exhausted,
    fun _ ht hc => ⟨_, exec_conv_decoded ht hc, rfl, fun w => get_tabulate _ w⟩,
    fun _ => exec_conv_continues⟩

/-- Settles O41: `CNU` writes the check message on the ones of H alone, and a row has seven others. -/
theorem cnuUpdatesChecks : Obligations.CnuUpdatesChecks := by
  intro s
  obtain ⟨t, ht, hframe, hu⟩ := exec_cnu_entries s
  refine ⟨t, ht, hframe, fun i a he => ?_, fun i a he => ?_, fun _ _ => length_connsRow_others⟩
  · rw [hu, if_pos he, checkMessage]
  · rw [hu, he, if_neg Bool.false_ne_true]

/-- Settles O42: `VNU` writes the variable message on the ones of H alone, from the stored channel
value where the entry is written. -/
theorem vnuUpdatesVariables : Obligations.VnuUpdatesVariables := by
  intro s
  obtain ⟨t, ht, hframe, hv⟩ := exec_vnu_entries s
  refine ⟨t, ht, hframe, fun i a he hw => ?_, fun i a he => ?_, fun _ _ => length_connsCol_others⟩
  · rw [hv, if_pos he, readLlr_written hw, variableMessage]
  · rw [hv, he, if_neg Bool.false_ne_true]

/-- Settles O43: the marginal of a written entry starts from the stored channel value. -/
theorem margUpdatesMarginals : Obligations.MargUpdatesMarginals := by
  intro s
  obtain ⟨t, ht, hframe, hr⟩ := exec_marg_entries s
  exact ⟨t, ht, hframe, fun a hw => by rw [hr, readLlr_written hw, marginal, allRows]⟩

/-- Settles O53: the head of the input list, or the phase, selects the instruction. -/
theorem stepRunsTheNextInstruction : Obligations.StepRunsTheNextInstruction := by
  refine ⟨fun s acc rest i hin hi => ?_,
    fun _ _ _ hin hi => step_of_engineTurn hin (enginePhase_of_decode hi),
    fun _ _ hin hi => step_of_enginePhase hin (enginePhase_of_decode hi),
    fun _ _ => step_of_engineTurn_idle, fun _ => step_of_idle⟩
  cases hi
  exact step_of_access hin

/-- Settles O55: a reset, a host access, an idle turn and an engine step each reach a next state. -/
theorem everyStepGoesOn : Obligations.EveryStepGoesOn := exists_step_next

end Sys2Proof
end

section
/-! The phase transitions (spec/42_decoder.md R158), and what a host access leaves alone while a decode
runs (spec/60_exceptions.md R233). -/

namespace Sys2Proof.Machine

/-! ### Phase transitions -/

theorem inputs_of_nextCommand {s : State} {w : Word} (h : s.nextCommand = some w) :
    ∃ rest, s.inputs = .access (.write 32 0x08 w) :: rest := by
  unfold State.nextCommand at h
  split at h
  case h_1 bits off v rest hin =>
    split at h
    case isTrue hcmd =>
      obtain ⟨rfl, rfl⟩ := hcmd
      cases h
      exact ⟨rest, hin⟩
    case isFalse => cases h
  case h_2 => cases h

theorem step_of_nextIsReset {s : State} (h : s.nextIsReset = true) :
    ∃ rest, step s = .next ({ s with inputs := rest } : State).resetStep := by
  obtain ⟨rest, -, e⟩ | ⟨acc, rest, hin, -⟩ | ⟨-, rest, ⟨hin, -⟩ | hin, -⟩ := step_cases s
  · exact ⟨rest, e⟩
  all_goals simp [State.nextIsReset, hin] at h

theorem exists_enginePhase {p : Phase} (h : p ≠ .idle) : ∃ i, enginePhase p = some i := by
  cases p with
  | idle => exact absurd rfl h
  | init => exact ⟨_, enginePhase_init⟩
  | conv => exact ⟨_, enginePhase_conv⟩
  | cnu => exact ⟨_, enginePhase_cnu⟩
  | vnu => exact ⟨_, enginePhase_vnu⟩
  | marg => exact ⟨_, enginePhase_marg⟩

/-- The engine's turn: an idle engine keeps its state, and one in a decode takes its phase's step. -/
theorem step_of_engineMoves {s t : State} (hm : s.engineMoves = true) (h : step s = .next t) :
    (s.phase = .idle ∧ ∃ rest, t = { s with inputs := rest }) ∨
    ∃ i rest, enginePhase s.phase = some i ∧ exec i { s with inputs := rest } = .next t := by
  obtain ⟨rest, hin, -⟩ | ⟨acc, rest, hin, -⟩ | ⟨-, rest, -, ⟨hp, e⟩ | ⟨i, hi, e⟩⟩ := step_cases s
  · simp [State.engineMoves, hin] at hm
  · simp [State.engineMoves, hin] at hm
  · rw [e] at h
    cases h
    exact .inl ⟨hp, rest, rfl⟩
  · exact .inr ⟨i, rest, hi, e.symm.trans h⟩

/-- The engine's transitions of R158: from `s` to the phase `p`. -/
def EngineTransition (s : State) (p : Phase) : Prop :=
  (s.phase = .init ∧ p = .conv) ∨
  (s.phase = .conv ∧ (s.t = s.cap.toNat ∨ isCodeword s.r = true) ∧ p = .idle) ∨
  (s.phase = .conv ∧ s.t ≠ s.cap.toNat ∧ isCodeword s.r = false ∧ p = .cnu) ∨
  (s.phase = .cnu ∧ p = .vnu) ∨
  (s.phase = .vnu ∧ p = .marg) ∨
  (s.phase = .marg ∧ p = .conv)

theorem engine_transition {i : Instr} {s t : State} (hi : enginePhase s.phase = some i)
    (h : exec i s = .next t) : EngineTransition s t.phase := by
  obtain ⟨hp, r, v, -, rfl⟩ | ⟨hp, hcap, rfl⟩ | ⟨hp, -, hc, rfl⟩ | ⟨hp, hcap, hc, rfl⟩ |
    ⟨hp, u, -, rfl⟩ | ⟨hp, v, -, rfl⟩ | ⟨hp, r, rfl⟩ := engine_cases hi h
  · exact .inl ⟨hp, rfl⟩
  · exact .inr (.inl ⟨hp, .inl hcap, rfl⟩)
  · exact .inr (.inl ⟨hp, .inr hc, rfl⟩)
  · exact .inr (.inr (.inl ⟨hp, hcap, hc, rfl⟩))
  · exact .inr (.inr (.inr (.inl ⟨hp, rfl⟩)))
  · exact .inr (.inr (.inr (.inr (.inl ⟨hp, rfl⟩))))
  · exact .inr (.inr (.inr (.inr (.inr ⟨hp, rfl⟩))))

/-- Of the host accesses only an accepted `DECODE` moves the sequencer. -/
theorem access_phase {acc : BusAccess} {s t : State} (h : exec (decodeAccess acc) s = .next t) :
    t.phase = s.phase ∨
    (s.phase = .idle ∧ acc = .write 32 0x08 0x03000000 ∧ t.phase = .init) := by
  obtain ⟨b, rfl⟩ | ⟨b, rfl⟩ | ⟨-, c, rfl⟩ | ⟨e, rfl⟩ | ⟨hi, lo, d, rfl⟩ | ⟨w, rfl, hw⟩ :=
    access_cases h
  · exact .inl rfl
  · exact .inl rfl
  · exact .inl rfl
  · exact .inl rfl
  · exact .inl rfl
  obtain rfl | ⟨e, rfl⟩ | ⟨hi, lo, d, rfl⟩ | ⟨-, -, a, x, rfl⟩ | ⟨rfl, hidle, rfl⟩ | ⟨-, c, rfl⟩ |
    ⟨-, -, out, rfl⟩ | ⟨-, rfl⟩ := runCommand_cases hw
  · exact .inl rfl
  · exact .inl rfl
  · exact .inl rfl
  · exact .inl rfl
  · exact .inr ⟨(not_busy_iff s).1 hidle, rfl, rfl⟩
  · exact .inl rfl
  · exact .inl rfl
  · exact .inl rfl

/-! ### Host accesses while a decode runs -/

/-- `LLR_WR`, `DECODE`, `PACK` and a write to `ITER_CAP` are rejected while a decode runs, and `DONE` is
already 0 when a `CLEAR` clears it. -/
theorem access_keeps_running_decode {acc : BusAccess} {s t : State} (hs : s.Inv)
    (hb : s.busy = true) (h : exec (decodeAccess acc) s = .next t) :
    t.decodeView = s.decodeView ∧ t.written = s.written ∧ t.inputs = s.inputs := by
  obtain ⟨b, rfl⟩ | ⟨b, rfl⟩ | ⟨hidle, -⟩ | ⟨e, rfl⟩ | ⟨hi, lo, d, rfl⟩ | ⟨w, -, hw⟩ :=
    access_cases h
  · exact ⟨rfl, rfl, rfl⟩
  · exact ⟨rfl, rfl, rfl⟩
  · simp [hb] at hidle
  · exact ⟨rfl, rfl, rfl⟩
  · exact ⟨rfl, rfl, rfl⟩
  obtain rfl | ⟨e, rfl⟩ | ⟨hi, lo, d, rfl⟩ | ⟨-, hidle, -⟩ | ⟨-, hidle, -⟩ | ⟨-, c, rfl⟩ |
    ⟨-, hidle, -⟩ | ⟨-, rfl⟩ := runCommand_cases hw
  · exact ⟨rfl, rfl, rfl⟩
  · exact ⟨rfl, rfl, rfl⟩
  · exact ⟨rfl, rfl, rfl⟩
  · simp [hb] at hidle
  · simp [hb] at hidle
  · exact ⟨rfl, rfl, rfl⟩
  · simp [hb] at hidle
  · obtain ⟨hdone, -⟩ := hs.running_shows_nothing hb
    exact ⟨by simp [State.decodeView, hdone], rfl, rfl⟩

theorem step_access_keeps_running_decode {acc : BusAccess} {rest : List Input} {s : State}
    (hs : s.Inv) (hb : s.busy = true) (hin : s.inputs = .access acc :: rest) :
    ∃ t, step s = .next t ∧ t.inputs = rest ∧ t.decodeView = s.decodeView ∧
      t.written = s.written := by
  obtain ⟨t, ht⟩ := exists_access_next acc { s with inputs := rest, bus := .accepted }
  obtain ⟨hview, hwritten, hrest⟩ := access_keeps_running_decode (hs.setInputs rest .accepted) hb ht
  exact ⟨t, (step_of_access hin).trans ht, hrest, hview, hwritten⟩

end Sys2Proof.Machine
end

section
/-! Runs of the engine left alone: how long it is busy, and when a decode ends (spec/42_decoder.md
R164). -/

namespace Sys2Proof.Machine

/-- The machine is busy before each of the next `n` steps. -/
def BusyFor (n : Nat) (s : State) : Prop := ∀ m < n, ∃ t, runSteps m s = .next t ∧ t.busy = true

theorem BusyFor.busy {n : Nat} {s : State} (h : BusyFor (n + 1) s) : s.busy = true := by
  obtain ⟨t, ht, hb⟩ := h 0 n.succ_pos
  cases ht
  exact hb

theorem busyFor_succ_iff {n : Nat} {s t : State} (h : step s = .next t) :
    BusyFor (n + 1) s ↔ s.busy = true ∧ BusyFor n t := by
  constructor
  · refine fun hs => ⟨hs.busy, fun m hm => ?_⟩
    rw [← runSteps_succ h]
    exact hs (m + 1) (Nat.succ_lt_succ hm)
  · rintro ⟨hb, ht⟩ (_ | m) hm
    · exact ⟨s, rfl, hb⟩
    · rw [runSteps_succ h]
      exact ht m (Nat.lt_of_succ_lt_succ hm)

/-- A decode under way in `s` is over after exactly `n` steps, and `P` holds of its last state. -/
structure EndsAfter (n : Nat) (s : State) (P : State → Prop) : Prop where
  busy_before : BusyFor n s
  ends : ∃ t, runSteps n s = .next t ∧ t.phase = .idle ∧ t.done = true ∧ P t

theorem EndsAfter.of_step {n : Nat} {s t : State} {P : State → Prop} (hb : s.busy = true)
    (h : step s = .next t) (ht : EndsAfter n t P) : EndsAfter (n + 1) s P where
  busy_before := (busyFor_succ_iff h).2 ⟨hb, ht.busy_before⟩
  ends := by
    rw [runSteps_succ h]
    exact ht.ends

/-- With nothing pending the engine takes the first of the steps. -/
theorem EndsAfter.of_exec {n : Nat} {s t : State} {P : State → Prop} {i : Instr}
    (hin : s.inputs = []) (hi : enginePhase s.phase = some i) (h : exec i s = .next t)
    (ht : EndsAfter n t P) : EndsAfter (n + 1) s P :=
  .of_step ((busy_iff s).2 fun hp => by simp [hp] at hi) ((step_of_enginePhase hin hi).trans h) ht

theorem endsAfter_zero {t : State} {P : State → Prop} (hp : t.phase = .idle) (hd : t.done = true)
    (hP : P t) : EndsAfter 0 t P :=
  ⟨fun _ hm => absurd hm (Nat.not_lt_zero _), t, rfl, hp, hd, hP⟩

/-- What a decode of `T` iterations shows, started with the message `msg` under the cap `cap`. -/
def ShowsOutcome (T cap : Nat) (msg : Vector Word 4) (t : State) : Prop :=
  t.t = T ∧ (t.result = .decoded ∨ (t.result = .notDecoded ∧ T = cap ∧ t.msg = msg))

/-- `CNU`, `VNU` and `MARG` lead back to `CONV` with an iteration counted. -/
theorem update_pass {s : State} (hin : s.inputs = []) (hp : s.phase = .cnu) :
    ∃ t, t.phase = .conv ∧ t.inputs = [] ∧ t.t = s.t + 1 ∧ t.cap = s.cap ∧ t.msg = s.msg ∧
      ∀ {n P}, EndsAfter n t P → EndsAfter (n + 3) s P := by
  obtain ⟨u, -, hcnu⟩ := exec_cnu_eq s
  obtain ⟨v, -, hvnu⟩ := exec_vnu_eq { s with u := u, phase := .vnu }
  obtain ⟨r, hmarg⟩ := exec_marg_eq { s with u := u, v := v, phase := .marg, draws := s.draws + 1 }
  refine ⟨{ s with
    u := u, v := v, r := r, t := s.t + 1, phase := .conv, draws := s.draws + 1 + 1 },
    rfl, hin, rfl, rfl, rfl, fun h => ?_⟩
  exact .of_exec hin (by rw [hp, enginePhase_cnu]) hcnu
    (.of_exec hin enginePhase_vnu hvnu (.of_exec hin enginePhase_marg hmarg h))

/-- From a `CONV` with `k` iterations left, a decode left alone ends after some `j ≤ k` of them. -/
theorem exists_endsAfter_conv (k : Nat) {s : State} (hin : s.inputs = []) (hp : s.phase = .conv)
    (hk : s.t + k = s.cap.toNat) :
    ∃ j ≤ k, EndsAfter (4 * j + 1) s (ShowsOutcome (s.t + j) s.cap.toNat s.msg) := by
  have hi : enginePhase s.phase = some .conv := by rw [hp, enginePhase_conv]
  induction k generalizing s with
  | zero =>
    exact ⟨0, le_rfl, .of_exec hin hi (exec_conv_exhausted hk)
      (endsAfter_zero rfl rfl ⟨rfl, .inr ⟨rfl, hk, rfl⟩⟩)⟩
  | succ k ih =>
    have hlt : s.t ≠ s.cap.toNat := by omega
    cases hc : isCodeword s.r with
    | true =>
      exact ⟨0, Nat.zero_le _, .of_exec hin hi (exec_conv_decoded hlt hc)
        (endsAfter_zero rfl rfl ⟨rfl, .inl rfl⟩)⟩
    | false =>
      obtain ⟨t, htp, htin, htt, htcap, htmsg, hpass⟩ :=
        update_pass (s := { s with phase := .cnu }) hin rfl
      dsimp only at htt htcap htmsg
      obtain ⟨j, hj, hends⟩ :=
        ih htin htp (by rw [htt, htcap]; omega) (by rw [htp, enginePhase_conv])
      rw [htt, htcap, htmsg, Nat.add_right_comm, Nat.add_assoc] at hends
      exact ⟨j + 1, Nat.succ_le_succ hj, .of_exec hin hi (exec_conv_continues hlt hc) (hpass hends)⟩

theorem exists_endsAfter_init {s : State} (hin : s.inputs = []) (hp : s.phase = .init)
    (ht : s.t = 0) :
    ∃ T ≤ s.cap.toNat, EndsAfter (2 + 4 * T) s (ShowsOutcome T s.cap.toNat s.msg) := by
  obtain ⟨t, hinit, htp, htin, htt, htcap, htmsg⟩ := step_init hin hp
  obtain ⟨T, hT, hends⟩ :=
    exists_endsAfter_conv s.cap.toNat htin htp (by rw [htt, ht, htcap, zero_add])
  rw [htt, ht, htcap, htmsg, zero_add] at hends
  refine ⟨T, hT, ?_⟩
  rw [add_comm]
  exact .of_step ((busy_iff s).2 (by simp [hp])) hinit hends

end Sys2Proof.Machine
end

section
/-! Two runs of one decode: states that hold the same decode view, with every entry written, keep it
the same as their engines step (spec/42_decoder.md R165). -/

namespace Sys2Proof.Machine

theorem decodeView_eq_iff {s s' : State} : s.decodeView = s'.decodeView ↔
    s.llr = s'.llr ∧ s.r = s'.r ∧ s.u = s'.u ∧ s.v = s'.v ∧ s.phase = s'.phase ∧ s.t = s'.t ∧
    s.cap = s'.cap ∧ s.done = s'.done ∧ s.result = s'.result ∧ s.msg = s'.msg := by
  simp only [State.decodeView, DecodeView.mk.injEq]

/-- Two states hold the same decode, and no read of theirs is of an unwritten entry. -/
structure SameDecode (s s' : State) : Prop where
  view : s.decodeView = s'.decodeView
  written : s.allWritten
  written' : s'.allWritten

theorem SameDecode.phase_eq {s s' : State} (h : SameDecode s s') : s.phase = s'.phase :=
  congrArg DecodeView.phase h.view

theorem SameDecode.busy_eq {s s' : State} (h : SameDecode s s') : s.busy = s'.busy := by
  rw [State.busy, State.busy, h.phase_eq]

/-- The outcome is part of the decode view. -/
theorem SameDecode.outcome_eq {s s' : State} (h : SameDecode s s') :
    s.phase = s'.phase ∧ s.result = s'.result ∧ s.t = s'.t ∧ s.done = s'.done ∧ s.msg = s'.msg := by
  obtain ⟨-, -, -, -, hphase, ht, -, hdone, hresult, hmsg⟩ := decodeView_eq_iff.1 h.view
  exact ⟨hphase, hresult, ht, hdone, hmsg⟩

/-! ### The phases that read the buffer, with every entry written -/

theorem exec_init_written {s : State} (hs : s.allWritten) : exec .init s = .next { s with
    r := s.llr
    u := tabulate fun _ => tabulate fun _ => Fp.posZero
    v := tabulate fun a => tabulate fun i => if hBit i a then s.llr.get a else Fp.posZero
    phase := .conv, draws := s.draws + 1 } := by
  simp only [exec, execInit, readLlr_written (hs _), tabulate_get]
  rfl

theorem exec_vnu_written {s : State} (hs : s.allWritten) : exec .vnu s = .next { s with
    v := tabulate fun a => tabulate fun i =>
      if (connsCol a).contains i then variableMessage (s.llr.get a) s.u a i
      else (s.v.get a).get i
    phase := .marg, draws := s.draws + 1 } := by
  simp only [exec, execVnu, readLlr_written (hs _)]
  rfl

theorem exec_marg_written {s : State} (hs : s.allWritten) : exec .marg s = .next { s with
    r := tabulate fun a => marginal (s.llr.get a) s.u a
    t := s.t + 1, phase := .conv, draws := s.draws + 1 } := by
  simp only [exec, execMarg, readLlr_written (hs _)]
  rfl

/-! ### One step on each side -/

/-- Under `i` both states reach a next one that holds the same decode, and keep their inputs. -/
def KeepsSameDecode (i : Instr) (s s' : State) : Prop :=
  ∃ t t', exec i s = .next t ∧ exec i s' = .next t' ∧ SameDecode t t' ∧
    t.inputs = s.inputs ∧ t'.inputs = s'.inputs

/-- `INIT` forgets what `r`, `u` and `v` held. -/
theorem init_keepsSameDecode {s s' : State} (hs : s.allWritten) (hs' : s'.allWritten)
    (hllr : s.llr = s'.llr) (hcap : s.cap = s'.cap) (ht : s.t = s'.t) (hdone : s.done = s'.done)
    (hresult : s.result = s'.result) (hmsg : s.msg = s'.msg) : KeepsSameDecode .init s s' :=
  ⟨_, _, exec_init_written hs, exec_init_written hs',
    ⟨decodeView_eq_iff.2 ⟨hllr, hllr, rfl, by rw [hllr], rfl, ht, hcap, hdone, hresult, hmsg⟩,
      hs, hs'⟩, rfl, rfl⟩

theorem conv_keepsSameDecode {s s' : State} (h : SameDecode s s') : KeepsSameDecode .conv s s' := by
  obtain ⟨hllr, hr, hu, hv, -, ht, hcap, hdone, hresult, hmsg⟩ := decodeView_eq_iff.1 h.view
  by_cases hexh : s.t = s.cap.toNat
  · exact ⟨_, _, exec_conv_exhausted hexh, exec_conv_exhausted (by rw [← ht, hexh, hcap]),
      ⟨decodeView_eq_iff.2 ⟨hllr, hr, hu, hv, rfl, ht, hcap, rfl, rfl, hmsg⟩,
        h.written, h.written'⟩, rfl, rfl⟩
  have hexh' : s'.t ≠ s'.cap.toNat := by rwa [← ht, ← hcap]
  cases hc : isCodeword s.r with
  | true =>
    have hc' : isCodeword s'.r = true := hr ▸ hc
    exact ⟨_, _, exec_conv_decoded hexh hc, exec_conv_decoded hexh' hc',
      ⟨by simp [State.decodeView, hllr, hr, hu, hv, ht, hcap], h.written, h.written'⟩, rfl, rfl⟩
  | false =>
    exact ⟨_, _, exec_conv_continues hexh hc, exec_conv_continues hexh' (hr ▸ hc),
      ⟨decodeView_eq_iff.2 ⟨hllr, hr, hu, hv, rfl, ht, hcap, hdone, hresult, hmsg⟩,
        h.written, h.written'⟩, rfl, rfl⟩

theorem engine_keepsSameDecode {i : Instr} {s s' : State} (h : SameDecode s s')
    (hi : enginePhase s.phase = some i) : KeepsSameDecode i s s' := by
  obtain ⟨hllr, hr, hu, hv, -, ht, hcap, hdone, hresult, hmsg⟩ := decodeView_eq_iff.1 h.view
  cases hp : s.phase <;> rw [hp] at hi <;> cases hi
  case init => exact init_keepsSameDecode h.written h.written' hllr hcap ht hdone hresult hmsg
  case conv => exact conv_keepsSameDecode h
  case cnu =>
    exact ⟨_, _, rfl, rfl,
      ⟨decodeView_eq_iff.2 ⟨hllr, hr, by rw [hu, hv], hv, rfl, ht, hcap, hdone, hresult, hmsg⟩,
        h.written, h.written'⟩, rfl, rfl⟩
  case vnu =>
    exact ⟨_, _, exec_vnu_written h.written, exec_vnu_written h.written',
      ⟨decodeView_eq_iff.2
        ⟨hllr, hr, hu, by rw [hllr, hu, hv], rfl, ht, hcap, hdone, hresult, hmsg⟩,
        h.written, h.written'⟩, rfl, rfl⟩
  case marg =>
    exact ⟨_, _, exec_marg_written h.written, exec_marg_written h.written',
      ⟨decodeView_eq_iff.2
        ⟨hllr, by rw [hllr, hu], hu, hv, rfl, by rw [ht], hcap, hdone, hresult, hmsg⟩,
        h.written, h.written'⟩, rfl, rfl⟩

/-! ### Two runs -/

theorem step_of_engine_next {s : State} {rest : List Input} {i : Instr}
    (hin : s.inputs = [] ∧ rest = [] ∨ s.inputs = .engineTurn :: rest)
    (hi : enginePhase s.phase = some i) : step s = exec i { s with inputs := rest } := by
  obtain ⟨hin, rfl⟩ | hin := hin
  · rw [step_of_enginePhase hin hi, ← hin]
  · exact step_of_engineTurn hin hi

/-- The engine steps in both states, one with an input for it or none pending, the other alone. -/
theorem SameDecode.step_engine {s s' : State} {rest : List Input} (h : SameDecode s s')
    (hb : s.busy = true) (hin : s.inputs = [] ∧ rest = [] ∨ s.inputs = .engineTurn :: rest)
    (hin' : s'.inputs = []) :
    ∃ t t', step s = .next t ∧ step s' = .next t' ∧ SameDecode t t' ∧ t.inputs = rest ∧
      t'.inputs = [] := by
  obtain ⟨i, hi⟩ := exists_enginePhase ((busy_iff s).1 hb)
  obtain ⟨t, t', ht, ht', hsame, hrest, hrest'⟩ :=
    engine_keepsSameDecode (s := { s with inputs := rest }) ⟨h.view, h.written, h.written'⟩ hi
  exact ⟨t, t', (step_of_engine_next hin hi).trans ht,
    (step_of_enginePhase hin' (h.phase_eq ▸ hi)).trans ht', hsame, hrest, hrest'.trans hin'⟩

theorem SameDecode.run_alone {s s' : State} (h : SameDecode s s') (hin : s.inputs = [])
    (hin' : s'.inputs = []) (n : Nat) :
    ∃ t t', runSteps n s = .next t ∧ runSteps n s' = .next t' ∧ SameDecode t t' := by
  induction n generalizing s s' with
  | zero => exact ⟨s, s', rfl, rfl, h⟩
  | succ n ih =>
    cases hb : s.busy with
    | true =>
      obtain ⟨t, t', ht, ht', hsame, hrest, hrest'⟩ := h.step_engine hb (.inl ⟨hin, rfl⟩) hin'
      rw [runSteps_succ ht, runSteps_succ ht']
      exact ih hsame hrest hrest'
    | false =>
      have hp := (not_busy_iff s).1 hb
      rw [runSteps_succ (step_of_idle hin hp),
        runSteps_succ (step_of_idle hin' (h.phase_eq.symm.trans hp))]
      exact ih h hin hin'

/-- A run with host accesses among the engine's turns holds the same decode, turn by turn, as the
engine alone, which is busy all along. -/
theorem SameDecode.run_mix (mix : List Input) {s s' : State} (hs : s.Inv) (h : SameDecode s s')
    (hin : s.inputs = mix ++ [.engineTurn]) (hin' : s'.inputs = []) (hmix : Input.reset ∉ mix)
    (hbusy : BusyFor (mix.count .engineTurn + 1) s') :
    ∃ t t', runSteps (mix.length + 1) s = .next t ∧
      runSteps (mix.count .engineTurn + 1) s' = .next t' ∧ SameDecode t t' := by
  have hb : s.busy = true := h.busy_eq.trans hbusy.busy
  induction mix generalizing s s' with
  | nil =>
    obtain ⟨t, t', ht, ht', hsame, -⟩ := h.step_engine hb (.inr hin) hin'
    exact ⟨t, t', runSteps_succ ht 0, runSteps_succ ht' 0, hsame⟩
  | cons x mix ih =>
    have hmix' : Input.reset ∉ mix := fun hx => hmix (.tail x hx)
    cases x with
    | reset => exact absurd (.head mix) hmix
    | access acc =>
      obtain ⟨t, ht, hrest, hview, hwritten⟩ := step_access_keeps_running_decode hs hb hin
      have hsame : SameDecode t s' :=
        ⟨hview.trans h.view, fun a => hwritten ▸ h.written a, h.written'⟩
      have hcount : (Input.access acc :: mix).count .engineTurn = mix.count .engineTurn :=
        List.count_cons_of_ne (by simp)
      rw [hcount] at hbusy ⊢
      rw [List.length_cons, runSteps_succ ht]
      exact ih (hs.step ht) hsame hrest hin' hmix' hbusy (hsame.busy_eq.trans hbusy.busy)
    | engineTurn =>
      obtain ⟨t, t', ht, ht', hsame, hrest, hrest'⟩ := h.step_engine hb (.inr hin) hin'
      rw [List.count_cons_self] at hbusy ⊢
      obtain ⟨-, hbusy⟩ := (busyFor_succ_iff ht').1 hbusy
      rw [List.length_cons, runSteps_succ ht, runSteps_succ ht']
      exact ih (hs.step ht) hsame hrest hrest' hmix' hbusy (hsame.busy_eq.trans hbusy.busy)

end Sys2Proof.Machine
end

section
/-! The obligations of spec/42_decoder.md on runs and on every step: O44, O47, O48, O50. -/

namespace Sys2Proof

open Sys2Proof.Machine

/-- Settles O44: of the two agents' steps and the reset, only those listed move the sequencer. -/
theorem phaseTransitions : Obligations.PhaseTransitions := by
  refine ⟨fun s hr => ?_, fun s hp hw => ?_, fun s hm => ?_, fun s t h hne => ?_⟩
  · obtain ⟨rest, h⟩ := step_of_nextIsReset hr
    exact ⟨_, h, rfl⟩
  · obtain ⟨rest, hin⟩ := inputs_of_nextCommand hw
    have hidle : ({ s with inputs := rest, bus := .accepted } : State).busy = false :=
      (not_busy_iff s).2 hp
    exact ⟨_, (step_of_access hin).trans
      ((exec_regWr_cmd_decode _).trans (exec_decode_idle hidle)), rfl⟩
  · obtain ⟨t, ht⟩ := exists_step_next s
    refine ⟨t, ht, ?_⟩
    obtain ⟨hp, -⟩ | ⟨i, rest, hi, he⟩ := step_of_engineMoves hm ht
    · simp [hp]
    have htrans : EngineTransition s t.phase :=
      engine_transition (s := { s with inputs := rest }) hi he
    refine ⟨fun hp => ?_, fun hp hend => ?_, fun hp hcap hc => ?_, fun hp => ?_, fun hp => ?_,
      fun hp => ?_⟩
    · simpa [EngineTransition, hp] using htrans
    · obtain hcap | hc := hend
      · simpa [EngineTransition, hp, hcap] using htrans
      · simpa [EngineTransition, hp, hc] using htrans
    · simpa [EngineTransition, hp, hcap, hc] using htrans
    · simpa [EngineTransition, hp] using htrans
    · simpa [EngineTransition, hp] using htrans
    · simpa [EngineTransition, hp] using htrans
  · obtain ⟨hr, rest, rfl⟩ | ⟨acc, rest, hin, he⟩ | ⟨-, -, rest, rfl⟩ | ⟨hm, i, rest, hi, he⟩ :=
      step_next_cases h
    · exact .inl ⟨hr, rfl⟩
    · obtain hsame | ⟨hp, rfl, hinit⟩ := access_phase he
      · exact absurd hsame hne
      · exact .inr (.inl ⟨hp, nextCommand_of_inputs hin, hinit⟩)
    · exact absurd rfl hne
    · exact .inr (.inr ⟨hm, engine_transition (s := { s with inputs := rest }) hi he⟩)

/-- Settles O47: `INIT`, then an induction on the iterations left at a `CONV`. -/
theorem decodeEndsInBoundedSteps : Obligations.DecodeEndsInBoundedSteps := by
  intro s hp ht hin
  obtain ⟨T, hT, hends⟩ := exists_endsAfter_init hin hp ht
  have hcap := s.cap.isLt
  exact ⟨T, hT, by omega, hends.ends, hends.busy_before⟩

/-- Settles O48: `INIT` makes the decode the same in both, and every later step keeps it so. -/
theorem outcomeDependsOnlyOnBufferAndCap : Obligations.OutcomeDependsOnlyOnBufferAndCap := by
  intro s s' hp hp' hs hs' hllr hcap ht hdone hresult hmsg n
  cases n with
  | zero => exact ⟨_, _, rfl, rfl, hp.trans hp'.symm, hresult, ht, hdone, hmsg⟩
  | succ n =>
    obtain ⟨t, t', he, he', hsame, hin, hin'⟩ := init_keepsSameDecode (s := s.alone) (s' := s'.alone)
      hs hs' hllr hcap ht hdone hresult hmsg
    have hi : enginePhase s.alone.phase = some .init := congrArg enginePhase hp
    have hi' : enginePhase s'.alone.phase = some .init := congrArg enginePhase hp'
    have hstep : step s.alone = .next t := (step_of_enginePhase rfl hi).trans he
    have hstep' : step s'.alone = .next t' := (step_of_enginePhase rfl hi').trans he'
    rw [runSteps_succ hstep, runSteps_succ hstep']
    obtain ⟨f, f', hrun, hrun', hfinal⟩ := hsame.run_alone hin hin' n
    exact ⟨f, f', hrun, hrun', hfinal.outcome_eq⟩

/-- Settles O50: a host access keeps the decode, and an engine turn is the same step in both runs. -/
theorem hostAccessesCannotChangeOutcome : Obligations.HostAccessesCannotChangeOutcome := by
  intro s mix hs hwritten hmix hbusy
  obtain ⟨t, t', hrun, hrun', hsame⟩ := SameDecode.run_mix mix
    (s := { s with inputs := mix ++ [.engineTurn] }) (s' := s.alone) (hs.setInputs _ s.bus)
    ⟨rfl, hwritten, hwritten⟩ rfl rfl hmix fun m hm => hbusy m (Nat.le_of_lt_succ hm)
  exact ⟨t, t', hrun, hrun', hsame.outcome_eq, hsame.view⟩

end Sys2Proof
end

section
/-! What `CLEAR`, the LLR buffer commands and a register read do, in the terms of
spec/43_host_access.md R190 and R195 to R199. -/

namespace Sys2Proof.Machine

theorem exec_clear (s : State) : exec .clear s = .next { s with
    err := .none, done := false, chk := false, chkValid := false } := rfl

theorem irq_of_exec_clear {s t : State} (h : exec .clear s = .next t) : t.irq = false := by
  rw [exec_clear] at h
  cases h
  exact Bool.and_false _

theorem exec_llrRd_written {s : State} {a : BitVec 12} (ha : a.toNat < 256)
    (hw : s.written.get ⟨a.toNat, ha⟩ = true) :
    exec (.llrRd a) s = .next (s.drawn.setData
      ((s.llr.get ⟨a.toNat, ha⟩).extractLsb' 32 32)
      ((s.llr.get ⟨a.toNat, ha⟩).extractLsb' 0 32)) := by
  rw [exec_llrRd_loads s ha, readLlr_written hw]

theorem mem_llrReads_llrRd (s : State) {a : BitVec 12} (ha : a.toNat < 256) :
    (⟨a.toNat, ha⟩ : Col) ∈ llrReads (.llrRd a) s := by
  have hreads : llrReads (.llrRd a) s = (colOperand a).toList := rfl
  rw [hreads, colOperand_some ha]
  exact List.mem_singleton_self _

/-- R190 as a chain of tests on the offset; `CMD` and the reserved offsets read 0. -/
theorem regValue_eq_ite (off : BitVec 8) (s : State) : regValue off s =
    if off = 0x00 then 0x4C445043
    else if off = 0x04 then 0x00018420
    else if off = 0x0C then statusWord s
    else if off = 0x10 then (if s.ie then 1 else 0)
    else if off = 0x14 then s.cap.setWidth 32
    else if off = 0x18 then (BitVec.ofNat 16 s.t).setWidth 32
    else if off = 0x20 then s.dataLo
    else if off = 0x24 then s.dataHi
    else if off = 0x30 then s.msg.get 0
    else if off = 0x34 then s.msg.get 1
    else if off = 0x38 then s.msg.get 2
    else if off = 0x3C then s.msg.get 3
    else 0 := by
  simp only [← BitVec.toNat_inj (x := off)]
  unfold regValue
  split
  case h_14 =>
    simp only [imp_false] at *
    simp [*]
  all_goals simp [flagWord, *]

end Sys2Proof.Machine

namespace Sys2Proof

open Sys2Proof.Machine

/-- The word of a command with its operand in `B` alone (spec/30_encoding.md R80). -/
theorem decodeCommand_b_field {opc : BitVec 8} {b : BitVec 12} {i : Instr}
    (hi : i.wellFormed = true) (h : encode i = .command (enc opc 0 b)) :
    decodeCommand (opc.setWidth 32 <<< 24 ||| b.setWidth 32) = .ok i := by
  simpa using decodeCommand_fields hi h

/-- The LLR buffer commands do not use `A` and are ILLEGAL with a nonzero one
(spec/30_encoding.md R85). -/
theorem exec_regWr_cmd_nonzero_a {w : Word} (s : State)
    (hopc : (opcField w).toNat ∈ [0x01, 0x02]) (ha : aField w ≠ 0) :
    exec (.regWr 32 0x08 w) s = .next (s.raise .illegal) :=
  exec_regWr_cmd_of_wordIllegal (.inr (.inr ⟨hopc, ha⟩)) s

end Sys2Proof
end

section
/-! The obligations of spec/43_host_access.md: O8, O9, O10, O12, O13, O14. -/

namespace Sys2Proof

open Sys2Proof.Machine

/-- Settles O8: the all-zero word decodes to `NOP`, and the opcode takes no operands. -/
theorem nopChangesNothing : Obligations.NopChangesNothing :=
  ⟨rfl, fun s => ⟨rfl, exec_regWr_cmd_of_decodeCommand (i := .nop) rfl s⟩,
    fun _ s hopc hw => exec_regWr_cmd_nonzero_operands s (by simp [hopc]) hw⟩

/-- Settles O9: BUSY is checked before the column, and a column in range is written. -/
theorem llrWrStoresData : Obligations.LlrWrStoresData :=
  ⟨fun _ _ ha hidle => exec_llrWr_stores hidle ha, fun a _ hbusy => exec_llrWr_busy hbusy a,
    fun _ _ hidle ha => exec_llrWr_range hidle ha,
    fun _ => decodeCommand_b_field (opc := 0x01) rfl rfl,
    fun _ s hopc ha => exec_regWr_cmd_nonzero_a s (by simp [hopc]) ha⟩

/-- Settles O10: a column in range is read, and the stopping reading faults where it is unwritten. -/
theorem llrRdLoadsData : Obligations.LlrRdLoadsData :=
  ⟨fun _ _ ha hw => exec_llrRd_written ha hw,
    fun _ s ha hu => ⟨⟨_, _, exec_llrRd_loads s ha⟩,
      strictExec_of_unwritten rfl (mem_llrReads_llrRd s ha) hu⟩,
    fun _ s ha => exec_llrRd_range s ha,
    fun _ => decodeCommand_b_field (opc := 0x02) rfl rfl,
    fun _ s hopc ha => exec_regWr_cmd_nonzero_a s (by simp [hopc]) ha⟩

/-- Settles O12: with `DONE` cleared the interrupt drops, whatever `IE` is. -/
theorem clearAcknowledges : Obligations.ClearAcknowledges :=
  ⟨rfl, exec_clear, fun _ _ => irq_of_exec_clear,
    fun _ s hopc hw => exec_regWr_cmd_nonzero_operands s (by simp [hopc]) hw⟩

/-- Settles O13: an accepted read answers the register's value. -/
theorem regRdReturnsRegister : Obligations.RegRdReturnsRegister := by
  refine ⟨fun s bits off h => exec_regRd_refused ((accepts_eq_false_iff bits off).2 h) s,
    fun s off hal => ?_⟩
  rw [exec_regRd_accepted ((accepts_iff 32 off).2 ⟨rfl, hal⟩), regValue_eq_ite]

/-- Settles O14: one rule for each offset a write acts on, and one for those that ignore it. -/
theorem regWrWritesRegister : Obligations.RegWrWritesRegister := by
  refine fun s v =>
    ⟨fun bits off h => exec_regWr_refused ((accepts_eq_false_iff bits off).2 h) v s,
      fun i hi => exec_regWr_cmd_of_decodeCommand hi s,
      fun e he => (exec_regWr_cmd v s).trans (runCommand_error he s),
      exec_regWr_ctrl v s, fun hbusy => exec_regWr_iterCap_busy hbusy v,
      fun hidle => exec_regWr_iterCap hidle v, exec_regWr_dataLo v s, exec_regWr_dataHi v s,
      fun off hal hcmd hctrl hcap hlo hhi => ?_⟩
  rw [exec_regWr_accepted ((accepts_iff 32 off).2 ⟨rfl, hal⟩),
    writeReg_ignored (by simpa using ⟨hcmd, hctrl, hcap, hlo, hhi⟩)]

end Sys2Proof
end

section
/-! Rejections (spec/60_exceptions.md R224, R226): a word that fails a check does nothing but raise an
error, and a raise changes `ERR` alone, once. -/

namespace Sys2Proof.Machine

theorem raise_changes_only_err (e : ErrCode) (s : State) :
    s.raise e = { s with err := (s.raise e).err } := rfl

theorem raise_err_first {s : State} (h : s.err = .none) (e : ErrCode) : (s.raise e).err = e :=
  if_pos h

/-- The error of the first failing check, whichever other checks fail too. -/
theorem exists_exec_regWr_cmd_eq_raise {w : Word} {s : State}
    (h : wordIllegal w ∨ wordBusy w s ∨ wordRange w) :
    ∃ e, e ≠ .none ∧ exec (.regWr 32 0x08 w) s = .next (s.raise e) := by
  obtain ⟨hillegal, hbusy, hrange, -⟩ := firstFailingCheckDecides w s
  by_cases hi : wordIllegal w
  · exact ⟨.illegal, by decide, hillegal hi⟩
  by_cases hb : wordBusy w s
  · exact ⟨.busy, by decide, hbusy hi hb⟩
  · exact ⟨.range, by decide, hrange hi hb ((h.resolve_left hi).resolve_left hb)⟩

end Sys2Proof.Machine
end

section
/-! The obligations of spec/60_exceptions.md: O5, O49. -/

namespace Sys2Proof

open Sys2Proof.Machine

/-- Settles O5: a rejected word and a busy write to `ITER_CAP` both end in a raise. -/
theorem rejectionChangesOnlyErr : Obligations.RejectionChangesOnlyErr := by
  refine ⟨fun e s => ⟨fun hnone => raise_first hnone e, fun hset => raise_later hset e⟩,
    fun w s hrejected => ?_, fun v s hbusy => ?_⟩
  · obtain ⟨e, he, hexec⟩ := exists_exec_regWr_cmd_eq_raise hrejected
    exact ⟨s.raise e, hexec, raise_changes_only_err e s,
      fun hnone => (raise_err_first hnone e).trans_ne he, fun hset => raise_later hset e⟩
  · exact ⟨s.raise .busy, exec_regWr_iterCap_busy hbusy v, raise_changes_only_err .busy s,
      fun hnone => raise_err_first hnone .busy, fun hset => raise_later hset .busy⟩

/-- Settles O49: what would write the view is rejected while busy, and the `DONE` that `CLEAR` clears is
already 0 by the invariant. -/
theorem hostAccessKeepsRunningDecode : Obligations.HostAccessKeepsRunningDecode :=
  fun _ _ _ => step_access_keeps_running_decode

end Sys2Proof
end

section
/-! A reset step, and the stopping reading of instructions and steps: where it faults and where it
goes on (spec/70_reset_and_hazards.md R250, R251; spec/60_exceptions.md R222). -/

namespace Sys2Proof.Machine

/-! ### Reset -/

theorem step_of_reset {s : State} {rest : List Input} (hin : s.inputs = .reset :: rest) :
    step s = .next ({ s with inputs := rest } : State).resetStep := by
  rw [step, fetch_reset hin]

/-- `STATUS` shows what it shows in `State.reset`. -/
theorem statusWord_resetStep (s : State) : statusWord s.resetStep = 0 :=
  have hreset : statusWord State.reset = 0 := by decide
  hreset

/-! ### The stopping reading of an instruction -/

theorem strictExec_of_written {i : Instr} {s : State} (hi : refusedAt i = none)
    (h : ∀ a ∈ llrReads i s, s.written.get a = true) : strictExec i s = exec i s := by
  have hany : readsUnwritten i s = false := List.any_eq_false.2 fun a ha => by simp [h a ha]
  rw [strictExec, hi, hany]
  rfl

theorem strictExec_of_reads_nothing {i : Instr} {s : State} (hi : refusedAt i = none)
    (h : llrReads i s = []) : strictExec i s = exec i s :=
  strictExec_of_written hi (by simp [h])

/-- The stopping reading of an instruction faults or is its meaning. -/
theorem strictExec_eq_exec_or_fault (i : Instr) (s : State) :
    strictExec i s = exec i s ∨ ∃ f, strictExec i s = .fault f := by
  unfold strictExec
  split
  · exact .inr ⟨_, rfl⟩
  · split
    · exact .inr ⟨_, rfl⟩
    · exact .inl rfl

theorem refusedAt_regRd_accepted {off : BitVec 8} (h : off.toNat % 4 = 0) :
    refusedAt (.regRd 32 off) = none := if_pos ((accepts_iff 32 off).2 ⟨rfl, h⟩)

theorem refusedAt_regWr_accepted {off : BitVec 8} (h : off.toNat % 4 = 0) (v : Word) :
    refusedAt (.regWr 32 off v) = none := if_pos ((accepts_iff 32 off).2 ⟨rfl, h⟩)

theorem llrReads_regWr_other {bits : Nat} {off : BitVec 8} (h : off ≠ 0x08) (v : Word) (s : State) :
    llrReads (.regWr bits off v) s = [] := if_neg fun hcmd => h hcmd.2

/-! ### Commands written to `CMD` -/

/-- A command is no bus access, and what it reads is what `commandReads` lists. -/
theorem refusedAt_and_llrReads_of_decodeCommand {w : Word} {i : Instr} (h : decodeCommand w = .ok i)
    (s : State) : refusedAt i = none ∧ llrReads i s = commandReads i s := by
  obtain ⟨rfl, -⟩ | ⟨rfl, -⟩ | ⟨rfl, -⟩ | ⟨rfl, -⟩ | ⟨rfl, -⟩ | ⟨rfl, -⟩ | ⟨rfl, -⟩ | ⟨rfl, -⟩ |
    ⟨rfl, -⟩ | ⟨rfl, -⟩ := decodeCommand_cases h <;> exact ⟨rfl, rfl⟩

theorem llrReads_regWr_cmd_of_decodeCommand {w : Word} {i : Instr} (h : decodeCommand w = .ok i)
    (s : State) : llrReads (.regWr 32 0x08 w) s = llrReads i s := by
  rw [(refusedAt_and_llrReads_of_decodeCommand h s).2]
  simp [llrReads, h]

/-- Written to `CMD`, a command faults in the stopping reading where it does by itself. -/
theorem strictExec_regWr_cmd_of_decodeCommand {w : Word} {i : Instr} (h : decodeCommand w = .ok i)
    (s : State) : strictExec (.regWr 32 0x08 w) s = strictExec i s := by
  have hwrite : refusedAt (.regWr 32 0x08 w) = none := rfl
  have hcommand : refusedAt i = none := (refusedAt_and_llrReads_of_decodeCommand h s).1
  rw [strictExec, strictExec, hwrite, hcommand, readsUnwritten, readsUnwritten,
    llrReads_regWr_cmd_of_decodeCommand h, exec_regWr_cmd_of_decodeCommand h]

theorem llrReads_regWr_cmd_of_wordIllegal {w : Word} (h : wordIllegal w) (s : State) :
    llrReads (.regWr 32 0x08 w) s = [] := by
  obtain ⟨e, he⟩ := exists_decodeCommand_eq_error_iff.2 h
  simp [llrReads, he]

theorem llrReads_llrRd {a : BitVec 12} (ha : a.toNat < 256) (s : State) :
    llrReads (.llrRd a) s = [⟨a.toNat, ha⟩] :=
  congrArg Option.toList (colOperand_some ha)

theorem llrReads_llrRd_range {a : BitVec 12} (ha : 256 ≤ a.toNat) (s : State) :
    llrReads (.llrRd a) s = [] :=
  congrArg Option.toList (colOperand_none ha)

theorem llrReads_pack_busy {s : State} (h : s.busy = true) : llrReads .pack s = [] := if_pos h

/-- A command reads no entry if its opcode is none of `LLR_RD`, `CHECK` and `PACK`, or if it is
rejected as BUSY (`PACK`) or RANGE (`LLR_RD`). -/
theorem llrReads_of_decodeCommand {w : Word} {i : Instr} {s : State} (hd : decodeCommand w = .ok i)
    (h : (opcField w).toNat ∉ [0x02, 0x04, 0x05] ∨ wordBusy w s ∨ wordRange w) :
    llrReads i s = [] := by
  obtain ⟨rfl, -⟩ | ⟨rfl, -⟩ | ⟨rfl, ho, -⟩ | ⟨rfl, -⟩ | ⟨rfl, ho, -⟩ | ⟨rfl, ho, -⟩ | ⟨rfl, -⟩ |
    ⟨rfl, -⟩ | ⟨rfl, -⟩ | ⟨rfl, -⟩ := decodeCommand_cases hd
  · rfl
  · rfl
  · exact llrReads_llrRd_range (by simpa [wordBusy, wordRange, ho] using h) s
  · rfl
  · simp [wordBusy, wordRange, ho] at h
  · exact llrReads_pack_busy (by simpa [wordBusy, wordRange, ho] using h)
  · rfl
  · rfl
  · rfl
  · rfl

theorem strictExec_regWr_cmd_reads_nothing {w : Word} {s : State}
    (h : (opcField w).toNat ∉ [0x02, 0x04, 0x05] ∨ wordIllegal w ∨ wordBusy w s ∨ wordRange w) :
    strictExec (.regWr 32 0x08 w) s = exec (.regWr 32 0x08 w) s := by
  apply strictExec_of_reads_nothing rfl
  by_cases hill : wordIllegal w
  · exact llrReads_regWr_cmd_of_wordIllegal hill s
  · obtain ⟨i, hi⟩ := exists_decodeCommand_eq_ok hill
    rw [llrReads_regWr_cmd_of_decodeCommand hi]
    exact llrReads_of_decodeCommand hi (h.imp_right fun hrej => hrej.resolve_left hill)

theorem strictExec_pack_written {s : State} (hidle : s.busy = false)
    (h : ∀ a : Col, a.val < packBits → s.written.get a = true) :
    strictExec .pack s = exec .pack s :=
  strictExec_of_written rfl fun a ha => h a ((mem_llrReads_pack hidle).1 ha)

theorem strictExec_llrRd (s : State) {a : BitVec 12} (ha : a.toNat < 256) :
    strictExec (.llrRd a) s =
      if s.written.get ⟨a.toNat, ha⟩ then exec (.llrRd a) s else .fault .unwrittenLlrRead := by
  split
  case isTrue hw => exact strictExec_of_written rfl (by simpa [llrReads_llrRd ha] using hw)
  case isFalse hu =>
    exact strictExec_of_unwritten rfl (mem_llrReads_llrRd s ha) (Bool.eq_false_of_not_eq_true hu)

/-! ### Phases -/

theorem refusedAt_of_enginePhase {p : Phase} {i : Instr} (h : enginePhase p = some i) :
    refusedAt i = none := by
  cases p <;> cases h <;> rfl

/-- `INIT`, `VNU` and `MARG` read the whole buffer. -/
theorem llrReads_of_enginePhase {p : Phase} {i : Instr} (h : enginePhase p = some i)
    (hp : p = .init ∨ p = .vnu ∨ p = .marg) (s : State) : llrReads i s = allCols := by
  obtain rfl | rfl | rfl := hp <;> cases h <;> rfl

/-- The stopping reading faults on an instruction that reads the whole buffer with an unwritten
entry in it. -/
theorem strictExec_of_not_allWritten {i : Instr} {s : State} (hs : ¬ s.allWritten)
    (hi : refusedAt i = none) (h : llrReads i s = allCols) :
    strictExec i s = .fault .unwrittenLlrRead := by
  obtain ⟨a, ha⟩ := not_forall.1 hs
  exact strictExec_of_unwritten hi (h ▸ List.mem_finRange a) (Bool.eq_false_of_not_eq_true ha)

/-! ### The stopping reading of a step -/

theorem strictStep_of_fetch_some {s s' : State} {i : Instr} (h : fetch s = (some i, s')) :
    strictStep s = strictExec i s' := by rw [strictStep, h]

theorem step_of_fetch_some {s s' : State} {i : Instr} (h : fetch s = (some i, s')) :
    step s = exec i s' := by rw [step, h]

/-- A step that runs no instruction is the same in both readings. -/
theorem strictStep_eq_step_of_fetch_none {s s' : State} (h : fetch s = (none, s')) :
    strictStep s = step s := by
  have hstrict : strictStep s = .next s' := by rw [strictStep, h]
  rw [hstrict, step, h]

theorem strictStep_of_access {s : State} {acc : BusAccess} {rest : List Input}
    (hin : s.inputs = .access acc :: rest) :
    strictStep s = strictExec (decodeAccess acc) { s with inputs := rest, bus := .accepted } :=
  strictStep_of_fetch_some (fetch_access hin)

/-- The instruction of a step is the access that comes next or the phase's own, and it finds the
written marks as they are. -/
theorem fetch_instr_cases {s s' : State} {i : Instr} (h : fetch s = (some i, s')) :
    s'.written = s.written ∧
    ((∃ acc rest, s.inputs = .access acc :: rest ∧ i = decodeAccess acc) ∨
      enginePhase s.phase = some i) := by
  unfold fetch at h
  split at h <;> obtain ⟨hi, rfl⟩ := Prod.mk.inj h
  case h_1 => exact ⟨rfl, .inr hi⟩
  case h_2 => exact ⟨rfl, .inr hi⟩
  case h_3 => cases hi
  case h_4 acc rest hin => exact ⟨rfl, .inl ⟨acc, rest, hin, (Option.some.inj hi).symm⟩⟩

theorem strictStep_eq_step_or_fault (s : State) :
    strictStep s = step s ∨ ∃ f, strictStep s = .fault f := by
  rcases hf : fetch s with ⟨_ | i, s'⟩
  · exact .inl (strictStep_eq_step_of_fetch_none hf)
  · rw [strictStep_of_fetch_some hf, step_of_fetch_some hf]
    exact strictExec_eq_exec_or_fault i s'

theorem strictStep_eq_step {s : State} (hs : s.allWritten)
    (hacc : ∀ acc rest, s.inputs = .access acc :: rest → refusedAt (decodeAccess acc) = none) :
    strictStep s = step s := by
  rcases hf : fetch s with ⟨_ | i, s'⟩
  · exact strictStep_eq_step_of_fetch_none hf
  · obtain ⟨hw, hi⟩ := fetch_instr_cases hf
    have hnone : refusedAt i = none := by
      obtain ⟨acc, rest, hin, rfl⟩ | hp := hi
      · exact hacc acc rest hin
      · exact refusedAt_of_enginePhase hp
    rw [strictStep_of_fetch_some hf, step_of_fetch_some hf]
    exact strictExec_of_written hnone fun a _ => hw ▸ hs a

theorem exists_strictStep_of_engineMoves {s : State} {i : Instr} (hm : s.engineMoves = true)
    (hi : enginePhase s.phase = some i) :
    ∃ rest, strictStep s = strictExec i { s with inputs := rest } := by
  unfold State.engineMoves at hm
  split at hm
  case h_1 hin => exact ⟨s.inputs, strictStep_of_fetch_some (hi ▸ fetch_nil hin)⟩
  case h_2 rest hin => exact ⟨rest, strictStep_of_fetch_some (hi ▸ fetch_engineTurn hin)⟩
  case h_3 => cases hm

theorem strictStep_engine_unwritten {s : State} (hs : ¬ s.allWritten) (hm : s.engineMoves = true)
    (hp : s.phase = .init ∨ s.phase = .vnu ∨ s.phase = .marg) :
    strictStep s = .fault .unwrittenLlrRead := by
  obtain ⟨i, hi⟩ : ∃ i, enginePhase s.phase = some i := by
    obtain h | h | h := hp <;> rw [h] <;> exact ⟨_, rfl⟩
  obtain ⟨rest, hstep⟩ := exists_strictStep_of_engineMoves hm hi
  rw [hstep]
  exact strictExec_of_not_allWritten hs (refusedAt_of_enginePhase hi)
    (llrReads_of_enginePhase hi hp _)

end Sys2Proof.Machine
end

section
/-! The obligations of spec/70_reset_and_hazards.md: O52, O56. -/

namespace Sys2Proof

open Sys2Proof.Machine

/-- Settles O52: a pending reset is taken before anything else, and `resetStep` writes out each value
of R250. -/
theorem resetStepFromAnyState : Obligations.ResetStepFromAnyState :=
  fun _ _ hin => ⟨_, step_of_reset hin, rfl, rfl, rfl, rfl, rfl, rfl, rfl, rfl, rfl, rfl, rfl, rfl,
    fun _ => get_tabulate _ _, fun _ => get_tabulate _ _, rfl, statusWord_resetStep _⟩

/-- Settles O56: the stopping reading is the step or a fault, and which one follows from what the
interface refuses and which entries the instruction reads. -/
theorem stoppingReadingAgreesWithStep : Obligations.StoppingReadingAgreesWithStep := by
  refine ⟨fun s t h => ?goesOn, fun s hs hacc => ?written, fun s r => ?neverRefuses,
    fun s rest bits off v h hin => ?refusedAccess, fun s hs =>
      ⟨strictExec_of_not_allWritten hs rfl rfl, strictExec_of_not_allWritten hs rfl rfl,
        strictExec_of_not_allWritten hs rfl rfl, ?check, strictStep_engine_unwritten hs⟩,
    fun s hidle => ⟨fun ⟨a, ha, hu⟩ => ?packUnwritten, fun hw => ?packWritten⟩,
    fun s a ha => ?llrRd,
    fun s => ⟨strictExec_of_reads_nothing rfl rfl, strictExec_of_reads_nothing rfl rfl⟩,
    fun w s h => ?otherCommand, fun off v s hal => ⟨?read, fun hoff => ?otherWrite⟩⟩
  case goesOn =>
    obtain he | ⟨f, he⟩ := strictStep_eq_step_or_fault s
    · exact he ▸ h
    · rw [he] at h; cases h
  case written =>
    rw [strictStep_eq_step hs hacc]
    exact exists_step_next s
  case neverRefuses =>
    obtain he | ⟨f, he⟩ := strictStep_eq_step_or_fault s
    · obtain ⟨t, ht⟩ := exists_step_next s
      simp [he, ht]
    · simp [he]
  case refusedAccess =>
    have ha : accepts bits off = false := (accepts_eq_false_iff bits off).2 h
    obtain hin | hin := hin <;> rw [strictStep_of_access hin]
    · exact strictExec_of_refusedAt (refusedAt_regRd ha) _
    · exact strictExec_of_refusedAt (refusedAt_regWr ha v) _
  case check =>
    rw [strictExec_regWr_cmd_of_decodeCommand (i := .check) rfl]
    exact strictExec_of_not_allWritten hs rfl rfl
  case packUnwritten =>
    rw [strictExec_regWr_cmd_of_decodeCommand (i := .pack) rfl]
    exact strictExec_of_unwritten rfl ((mem_llrReads_pack hidle).2 ha) hu
  case packWritten =>
    rw [strictExec_regWr_cmd_of_decodeCommand (i := .pack) rfl]
    exact strictExec_pack_written hidle hw
  case llrRd =>
    have hd : decodeCommand (0x02000000 ||| a.setWidth 32) = .ok (.llrRd a) :=
      decodeCommand_b_field (opc := 0x02) rfl rfl
    rw [strictExec_regWr_cmd_of_decodeCommand hd]
    exact strictExec_llrRd s ha
  case otherCommand =>
    refine strictExec_regWr_cmd_reads_nothing (h.imp_left fun hopc => ?_)
    simpa [← BitVec.toNat_inj] using hopc
  case read => exact strictExec_of_reads_nothing (refusedAt_regRd_accepted hal) rfl
  case otherWrite =>
    exact strictExec_of_reads_nothing (refusedAt_regWr_accepted hal v)
      (llrReads_regWr_other hoff v s)

end Sys2Proof
end

section
/-! Which steps write `ERR` and the LLR buffer (spec/60_exceptions.md R224, R230; spec/10_state.md
R23). -/

namespace Sys2Proof.Machine

/-- The engine raises no error and only reads the buffer. -/
theorem engine_keeps_err_and_buffer {i : Instr} {s t : State} (hi : enginePhase s.phase = some i)
    (h : exec i s = .next t) : t.err = s.err ∧ t.llr = s.llr ∧ t.written = s.written := by
  obtain ⟨-, r, v, -, rfl⟩ | ⟨-, -, rfl⟩ | ⟨-, -, -, rfl⟩ | ⟨-, -, -, rfl⟩ | ⟨-, u, -, rfl⟩ |
    ⟨-, v, -, rfl⟩ | ⟨-, r, rfl⟩ := engine_cases hi h <;> exact ⟨rfl, rfl, rfl⟩

/-- Of the host accesses only `CLEAR` removes a recorded error. -/
theorem access_err {acc : BusAccess} {s t : State} (h : exec (decodeAccess acc) s = .next t)
    (herr : s.err ≠ .none) :
    t.err = s.err ∨ (acc = .write 32 0x08 0x09000000 ∧ t.err = .none) := by
  obtain ⟨b, rfl⟩ | ⟨b, rfl⟩ | ⟨-, c, rfl⟩ | ⟨e, rfl⟩ | ⟨hi, lo, d, rfl⟩ | ⟨w, rfl, hw⟩ :=
    access_cases h
  · exact .inl rfl
  · exact .inl rfl
  · exact .inl rfl
  · exact .inl (by rw [raise_later herr])
  · exact .inl rfl
  obtain rfl | ⟨e, rfl⟩ | ⟨hi, lo, d, rfl⟩ | ⟨-, -, a, x, rfl⟩ | ⟨-, -, rfl⟩ | ⟨-, c, rfl⟩ |
    ⟨-, -, out, rfl⟩ | ⟨rfl, rfl⟩ := runCommand_cases hw
  · exact .inl rfl
  · exact .inl (by rw [raise_later herr])
  · exact .inl rfl
  · exact .inl rfl
  · exact .inl rfl
  · exact .inl rfl
  · exact .inl rfl
  · exact .inr ⟨rfl, rfl⟩

/-- Which entry a word of the `LLR_WR` opcode stores, where it is accepted. -/
theorem runCommand_llrWr {w : Word} {s t : State} (hopc : opcField w = 0x01)
    (hidle : s.busy = false) (h : runCommand w s = .next t) :
    (∃ e, t = s.raise e) ∨ (aField w = 0 ∧
      ∃ a : Col, (bField w).toNat = a.val ∧ t = s.setLlr a (s.dataHi ++ s.dataLo)) := by
  rw [← exec_regWr_cmd] at h
  by_cases ha : aField w = 0
  · have hdecode : decodeCommand w = .ok (.llrWr (bField w)) := by
      rw [← enc_fields w, hopc, ha, bField_enc]
      exact decode_encode (.llrWr (bField w)) rfl
    rw [exec_regWr_cmd_of_decodeCommand hdecode] at h
    by_cases hb : (bField w).toNat < 256
    · rw [exec_llrWr_stores hidle hb] at h
      cases h
      exact .inr ⟨ha, ⟨(bField w).toNat, hb⟩, rfl, rfl⟩
    · rw [exec_llrWr_range hidle (not_lt.1 hb)] at h
      cases h
      exact .inl ⟨.range, rfl⟩
  · rw [exec_regWr_cmd_nonzero_a s (by simp [hopc]) ha] at h
    cases h
    exact .inl ⟨.illegal, rfl⟩

/-- Of the host accesses only an accepted `LLR_WR` writes the buffer or its marks. -/
theorem access_buffer {acc : BusAccess} {s t : State} (h : exec (decodeAccess acc) s = .next t) :
    (t.llr = s.llr ∧ t.written = s.written) ∨
    ∃ (w : Word) (a : Col), acc = .write 32 0x08 w ∧ opcField w = 0x01 ∧ aField w = 0 ∧
      (bField w).toNat = a.val ∧ s.busy = false ∧ t = s.setLlr a (s.dataHi ++ s.dataLo) := by
  obtain ⟨b, rfl⟩ | ⟨b, rfl⟩ | ⟨-, c, rfl⟩ | ⟨e, rfl⟩ | ⟨hi, lo, d, rfl⟩ | ⟨w, rfl, hw⟩ :=
    access_cases h
  · exact .inl ⟨rfl, rfl⟩
  · exact .inl ⟨rfl, rfl⟩
  · exact .inl ⟨rfl, rfl⟩
  · exact .inl ⟨rfl, rfl⟩
  · exact .inl ⟨rfl, rfl⟩
  obtain rfl | ⟨e, rfl⟩ | ⟨hi, lo, d, rfl⟩ | ⟨hopc, hidle, -⟩ | ⟨-, -, rfl⟩ | ⟨-, c, rfl⟩ |
    ⟨-, -, out, rfl⟩ | ⟨-, rfl⟩ := runCommand_cases hw
  · exact .inl ⟨rfl, rfl⟩
  · exact .inl ⟨rfl, rfl⟩
  · exact .inl ⟨rfl, rfl⟩
  · have hopc : opcField w = 0x01 := BitVec.eq_of_toNat_eq hopc
    obtain ⟨e, rfl⟩ | ⟨ha, a, hb, ht⟩ := runCommand_llrWr hopc hidle hw
    · exact .inl ⟨rfl, rfl⟩
    · exact .inr ⟨w, a, rfl, hopc, ha, hb, hidle, ht⟩
  · exact .inl ⟨rfl, rfl⟩
  · exact .inl ⟨rfl, rfl⟩
  · exact .inl ⟨rfl, rfl⟩
  · exact .inl ⟨rfl, rfl⟩

/-- Every writer of `LLR` and its marks, over the steps of both agents and the reset. -/
theorem step_buffer {s t : State} (h : step s = .next t) :
    (t.llr = s.llr ∧ t.written = s.written) ∨ s.nextIsReset = true ∨
    ∃ (w : Word) (a : Col), s.nextCommand = some w ∧ opcField w = 0x01 ∧ aField w = 0 ∧
      (bField w).toNat = a.val ∧ s.busy = false ∧
      t.llr = s.llr.set a (s.dataHi ++ s.dataLo) ∧ t.written = s.written.set a true := by
  obtain ⟨hr, -⟩ | ⟨acc, rest, hin, he⟩ | ⟨-, -, rest, rfl⟩ | ⟨-, i, rest, hi, he⟩ :=
    step_next_cases h
  · exact .inr (.inl hr)
  · obtain hsame | ⟨w, a, rfl, hopc, ha, hb, hidle, rfl⟩ := access_buffer he
    · exact .inl hsame
    · exact .inr (.inr ⟨w, a, nextCommand_of_inputs hin, hopc, ha, hb, hidle, rfl, rfl⟩)
  · exact .inl ⟨rfl, rfl⟩
  · exact .inl (engine_keeps_err_and_buffer (s := { s with inputs := rest }) hi he).2

end Sys2Proof.Machine
end

section
/-! A codeword test is linear in the hard decisions (spec/41_codeword_and_pack.md R133). -/

namespace Sys2Proof.Machine

theorem foldl_xor_xor {α : Type} (p q : α → Bool) (L : List α) (b c : Bool) :
    (L.foldl (fun acc a => acc ^^ p a) b ^^ L.foldl (fun acc a => acc ^^ q a) c) =
      L.foldl (fun acc a => acc ^^ (p a ^^ q a)) (b ^^ c) := by
  induction L generalizing b c with
  | nil => rfl
  | cons a as ih =>
    have hswap : ((b ^^ p a) ^^ (c ^^ q a)) = ((b ^^ c) ^^ (p a ^^ q a)) := by
      rw [Bool.xor_assoc, Bool.xor_assoc, Bool.xor_left_comm (p a)]
    rw [List.foldl_cons, List.foldl_cons, List.foldl_cons, ih, hswap]

/-- Two syndromes of a row differ by the parity of the columns on which the decisions differ. -/
theorem syndrome_xor_syndrome (x y : Vector F64 256) (i : Row) :
    (syndrome x i ^^ syndrome y i) = decide (((connsRow i).countP fun a =>
      Fp.hard (x.get a) ^^ Fp.hard (y.get a)) % 2 = 1) := by
  rw [syndrome, syndrome, foldl_xor_xor, foldl_xor_eq_parity, Bool.xor_false, Bool.false_xor]

theorem isCodeword_congr {x y : Vector F64 256}
    (h : ∀ a, Fp.hard (x.get a) = Fp.hard (y.get a)) : isCodeword x = isCodeword y := by
  have hsyn : syndrome x = syndrome y := by
    funext i
    simp only [syndrome, h]
  rw [isCodeword, isCodeword, hsyn]

/-- A column occurs in a row's index once or not at all, so one flipped decision flips the parity of
just the rows it is in. -/
theorem syndrome_xor_of_flip {x y : Vector F64 256} {a0 : Col}
    (hsame : ∀ a, a ≠ a0 → Fp.hard (y.get a) = Fp.hard (x.get a))
    (hflip : Fp.hard (y.get a0) ≠ Fp.hard (x.get a0)) (i : Row) :
    (syndrome x i ^^ syndrome y i) = true ↔ i ∈ connsCol a0 := by
  have hdiff : (fun a => Fp.hard (x.get a) ^^ Fp.hard (y.get a)) = fun a => a == a0 := by
    funext a
    by_cases ha : a = a0
    · subst ha
      simpa using hflip.symm
    · simp [ha, hsame a ha]
  have hnodup : (connsRow i).Nodup := (pairwise_lt_connsRow i).imp ne_of_lt
  rw [syndrome_xor_syndrome, hdiff, decide_eq_true_eq, ← List.count, hnodup.count, mem_connsCol,
    ← mem_connsRow]
  by_cases hmem : a0 ∈ connsRow i <;> simp [hmem]

end Sys2Proof.Machine
end

section
/-! A placed table word comes next (spec/30_encoding.md R80, R89), and the interrupt after each command
that acts on it (spec/60_exceptions.md R231). -/

namespace Sys2Proof.Machine

/-! ### Placed words -/

theorem eq_ok_of_toOption {ε α : Type} {x : Except ε α} {a : α} (h : x.toOption = some a) :
    x = .ok a := by
  cases x with
  | ok b => cases h; rfl
  | error e => cases h

/-- A 32-bit table word is a command word. -/
theorem withFetchWord_32 (s : State) (w : Nat) : s.withFetchWord 32 w =
    { s with inputs := .access (.write 32 0x08 (BitVec.ofNat 32 (w % 2 ^ 32))) :: s.inputs } := rfl

theorem decodeTableWord_32 {w : Nat} {i : Instr} (h : decodeTableWord 32 w = some i) :
    decodeCommand (BitVec.ofNat 32 (w % 2 ^ 32)) = .ok i := eq_ok_of_toOption h

/-- An 8-bit table word is a PHASE code. -/
theorem withFetchWord_8 (s : State) {w : Nat} {p : Phase} (h : p.code = BitVec.ofNat 3 w) :
    s.withFetchWord 8 w = { s with phase := p, inputs := .engineTurn :: s.inputs } := by
  have hplace : s.withFetchWord 8 w = placeNext (.phase (BitVec.ofNat 3 w)) s := rfl
  rw [hplace, ← h, placeNext, ofCode_code]

theorem decodeTableWord_8 {w : Nat} {i : Instr} (h : decodeTableWord 8 w = some i) :
    decodePhase (BitVec.ofNat 3 w) = .ok i := eq_ok_of_toOption h

/-- The codes that decode to a step are those of the phases of a decode. -/
theorem exists_phase_of_decodePhase {c : BitVec 3} {i : Instr} (h : decodePhase c = .ok i) :
    ∃ p : Phase, p.code = c ∧ enginePhase p = some i := by
  unfold decodePhase at h
  split at h <;> cases h
  case h_2 hc => exact ⟨.init, BitVec.eq_of_toNat_eq hc.symm, enginePhase_init⟩
  case h_3 hc => exact ⟨.conv, BitVec.eq_of_toNat_eq hc.symm, enginePhase_conv⟩
  case h_4 hc => exact ⟨.cnu, BitVec.eq_of_toNat_eq hc.symm, enginePhase_cnu⟩
  case h_5 hc => exact ⟨.vnu, BitVec.eq_of_toNat_eq hc.symm, enginePhase_vnu⟩
  case h_6 hc => exact ⟨.marg, BitVec.eq_of_toNat_eq hc.symm, enginePhase_marg⟩

/-! ### The interrupt -/

theorem irq_raise (e : ErrCode) (s : State) : (s.raise e).irq = s.irq := rfl

theorem irq_of_exec_decode {s t : State} (hidle : s.busy = false) (h : exec .decode s = .next t) :
    t.irq = false := by
  rw [exec_decode_idle hidle] at h
  cases h
  exact Bool.and_false _

/-- A `CONV` that leaves the engine idle has ended the decode. -/
theorem exec_conv_ends {s t : State} (h : exec .conv s = .next t) (hp : t.phase = .idle) :
    t.done = true ∧ t.irq = s.ie := by
  by_cases hcap : s.t = s.cap.toNat
  · rw [exec_conv_exhausted hcap] at h
    cases h
    exact ⟨rfl, Bool.and_true _⟩
  cases hc : isCodeword s.r with
  | true =>
    rw [exec_conv_decoded hcap hc] at h
    cases h
    exact ⟨rfl, Bool.and_true _⟩
  | false =>
    rw [exec_conv_continues hcap hc] at h
    cases h
    cases hp

theorem irq_of_exec_check {s t : State} (h : exec .check s = .next t) : t.irq = s.irq := by
  rw [exec_check] at h
  cases h
  rfl

theorem irq_of_exec_pack {s t : State} (h : exec .pack s = .next t) : t.irq = s.irq := by
  cases hb : s.busy with
  | true =>
    rw [exec_pack_busy hb] at h
    cases h
    exact irq_raise _ s
  | false =>
    rw [exec_pack_packs hb] at h
    cases h
    rfl

end Sys2Proof.Machine
end

section
/-! The obligations over the whole machine: O1, O7, O11, O20, O28, O54, O57. -/

namespace Sys2Proof

open Sys2Proof.Machine

/-- Settles O7: the engine raises nothing, and a later error is not recorded over the first. -/
theorem errIsStickyUntilClearOrReset : Obligations.ErrIsStickyUntilClearOrReset := by
  intro s t h herr
  obtain ⟨hr, rest, rfl⟩ | ⟨acc, rest, hin, he⟩ | ⟨-, -, rest, rfl⟩ | ⟨-, i, rest, hi, he⟩ :=
    step_next_cases h
  · exact .inr ⟨rfl, .inl hr⟩
  · obtain hsame | ⟨rfl, hnone⟩ := access_err he herr
    · exact .inl hsame
    · exact .inr ⟨hnone, .inr (nextCommand_of_inputs hin)⟩
  · exact .inl rfl
  · exact .inl (engine_keeps_err_and_buffer (s := { s with inputs := rest }) hi he).1

/-- Settles O11, from the list of the writers of the buffer; `resetStep` names the marks alone. -/
theorem onlyLlrWrWritesTheBuffer : Obligations.OnlyLlrWrWritesTheBuffer := by
  refine fun s t h => ⟨fun hnr hchanged => ?_, fun hr => ?_⟩
  · obtain ⟨hllr, hwritten⟩ | hr | hwrite := step_buffer h
    · exact absurd hchanged (by simp [hllr, hwritten])
    · exact absurd hr (by simp [hnr])
    · exact hwrite
  · obtain ⟨rest, e⟩ := step_of_nextIsReset hr
    rw [e] at h
    cases h
    exact ⟨fun a => get_tabulate _ a, rfl⟩

/-- Settles O28: the test and the packer are functions of the decisions, and a codeword's syndromes
are 0, so after a flip they are what it changed. -/
theorem singleFlipFailsItsRows : Obligations.SingleFlipFailsItsRows := by
  refine ⟨fun x y h => ⟨isCodeword_congr h, fun bits => packMessage_congr fun a _ => h a⟩,
    fun x y a0 hx hsame hflip i => ?_⟩
  have hzero : syndrome x i = false := isCodeword_iff.1 hx i
  rw [← syndrome_xor_of_flip hsame hflip i, hzero, Bool.false_xor]

/-- Settles O54: a command word is placed as the write to `CMD` that comes next, a phase code as the
engine's turn in its phase. -/
theorem placedWordRunsNext : Obligations.PlacedWordRunsNext := by
  refine ⟨fun s w i h => ?_, fun s w i h => ?_⟩
  · rw [withFetchWord_32, step_of_access rfl]
    exact exec_regWr_cmd_of_decodeCommand (decodeTableWord_32 h) _
  · obtain ⟨p, hp, hi⟩ := exists_phase_of_decodePhase (decodeTableWord_8 h)
    refine ⟨p, hp, ?_⟩
    rw [withFetchWord_8 s hp, step_of_engineTurn rfl hi]

/-- Settles O1, by evaluation. -/
theorem specWordsDecode : Obligations.SpecWordsDecode := by
  unfold Obligations.SpecWordsDecode
  decide

/-- Settles O20: `DONE` is set where a decode ends and cleared by `CLEAR` and `DECODE`, and a write to
`CTRL` changes `IE` alone. -/
theorem interruptIsEnableAndDone : Obligations.InterruptIsEnableAndDone := by
  refine ⟨fun _ => rfl, fun _ _ => exec_conv_ends, fun _ _ => irq_of_exec_clear,
    fun _ _ => irq_of_exec_decode, fun v s t hv h => ?_, irq_raise,
    fun _ _ h => h.elim irq_of_exec_check irq_of_exec_pack⟩
  rw [exec_regWr_ctrl, hv] at h
  cases h
  exact ⟨Bool.false_and _, rfl⟩

/-- Settles O57: no decode runs after reset, and `DONE` and `CHK` are 0. -/
theorem invariantAtReset : Obligations.InvariantAtReset :=
  .of_idle rfl (by decide) (by decide) (by decide)

end Sys2Proof
end
